-- ==== Sys2Proof/Word.lean ====
section
/-! DEFINITION. The bit widths of the core (`00_scope.md` R9, R11: every value is unsigned). -/

namespace Sys2Proof

/-- A memory byte, a V register, a timer, an nn immediate: 8 bits (`10_state.md` R31, R36, `30_encoding.md` R101). -/
abbrev Byte := BitVec 8

/-- A 4-bit opcode field: a register number or the n immediate (`30_encoding.md` R101). -/
abbrev Nibble := BitVec 4

/-- A 12-bit value: I, PC, an nnn immediate, an address of the 4096-byte space (`10_state.md` R33, R34,
`20_memory.md` R70). Its arithmetic wraps modulo 4096, as R73 asks. -/
abbrev Addr := BitVec 12

/-- A 16-bit opcode word or stack slot (`30_encoding.md` R100, `10_state.md` R35). -/
abbrev Word := BitVec 16

end Sys2Proof
end

