-- ==== Sys2Proof/Config.lean ====
section
/-! DEFINITION. What an implementation fixes: the parameters that `00_scope.md` R9 leaves OPEN, each with every value
`92_eei_decisions.md` lists for it, and the free value of the random-byte port. -/

namespace Sys2Proof.Config

/-- `SHIFT_SOURCE` (D5): which register SHR and SHL shift (`42_alu.md` R219, R221). -/
inductive ShiftSource where
  | vx
  | vy
  deriving DecidableEq, Repr

/-- `LOADSTORE_I_MODE` (D6): what LD [I], Vx and LD Vx, [I] leave in I (`46_timers_index_memory.md` R339, R340). -/
inductive LoadStoreIMode where
  | unchanged
  | plusX
  | plusXPlus1
  deriving DecidableEq, Repr

/-- `GROUP0_MATCH` (D8): whether group 0 ignores bits 11:8 of the word (`30_encoding.md` R110). -/
inductive Group0Match where
  | lowByte
  | fullWord
  deriving DecidableEq, Repr

/-- `KEY_INDEX_POLICY` (D9): SKP and SKNP with V[x] above 15 (`45_keys.md` R312). -/
inductive KeyIndexPolicy where
  | fault
  | lowNibble
  | notPressed
  deriving DecidableEq, Repr

/-- `SCROLL_LOWRES` (D10): the scrolls when not in extended mode (`40_system_mode_scroll.md` R150). -/
inductive ScrollLowres where
  | physical
  | noop
  deriving DecidableEq, Repr

/-- The OPEN parameters of `00_scope.md` R9. DESIGN CHOICE (log entry 1): they are plain data that a state carries and no
step writes, so that a statement about every state is one about every value of every parameter. -/
structure Params where
  /-- `SHIFT_SOURCE`, D5 -/
  shiftSource : ShiftSource
  /-- `LOADSTORE_I_MODE`, D6 -/
  loadStoreIMode : LoadStoreIMode
  /-- `STRICT_5_9`, D7: `true` when 5xyn and 9xyn need n = 0 -/
  strict59 : Bool
  /-- `GROUP0_MATCH`, D8 -/
  group0Match : Group0Match
  /-- `KEY_INDEX_POLICY`, D9 -/
  keyIndexPolicy : KeyIndexPolicy
  /-- `SCROLL_LOWRES`, D10 -/
  scrollLowres : ScrollLowres
  /-- `SMALL_FONT`, D13: 16 glyphs of 5 bytes -/
  smallFont : Vector Byte 80
  /-- `LARGE_FONT`, D13: 10 glyphs of 10 bytes -/
  largeFont : Vector Byte 100
  deriving DecidableEq, Repr

/-- FREE VALUE (D14, log entry 14). The k-th byte the host's random-byte port supplies (`60_exceptions.md` R395): any value
0..255, under no law. It has no body, so no proof can see what it is. -/
opaque randomByte : Nat → Byte

end Sys2Proof.Config
end

