-- ==== Sys2Proof/Machine/Params.lean ====
section
/-! DEFINITION. The default value of every parameter of `00_scope.md` R9, the two default font tables of `20_memory.md` R80
and R81, and the fixed sizes the ports and the stack use. -/

namespace Sys2Proof.Machine

/-- `SMALL_FONT`'s default bytes, glyphs 0 to F, five bytes each (`20_memory.md` R80, D13; log entry 8). -/
def smallFontBytes : List Byte :=
  [0xF0, 0x90, 0x90, 0x90, 0xF0] ++
  [0x20, 0x60, 0x20, 0x20, 0x70] ++
  [0xF0, 0x10, 0xF0, 0x80, 0xF0] ++
  [0xF0, 0x10, 0xF0, 0x10, 0xF0] ++
  [0x90, 0x90, 0xF0, 0x10, 0x10] ++
  [0xF0, 0x80, 0xF0, 0x10, 0xF0] ++
  [0xF0, 0x80, 0xF0, 0x90, 0xF0] ++
  [0xF0, 0x10, 0x20, 0x40, 0x40] ++
  [0xF0, 0x90, 0xF0, 0x90, 0xF0] ++
  [0xF0, 0x90, 0xF0, 0x10, 0xF0] ++
  [0xF0, 0x90, 0xF0, 0x90, 0x90] ++
  [0xE0, 0x90, 0xE0, 0x90, 0xE0] ++
  [0xF0, 0x80, 0x80, 0x80, 0xF0] ++
  [0xE0, 0x90, 0x90, 0x90, 0xE0] ++
  [0xF0, 0x80, 0xF0, 0x80, 0xF0] ++
  [0xF0, 0x80, 0xF0, 0x80, 0x80]

/-- `LARGE_FONT`'s default bytes, glyphs 0 to 9, ten bytes each (`20_memory.md` R81, D13; log entry 8). -/
def largeFontBytes : List Byte :=
  [0xFF, 0xFF, 0xC3, 0xC3, 0xC3, 0xC3, 0xC3, 0xC3, 0xFF, 0xFF] ++
  [0x18, 0x78, 0x78, 0x18, 0x18, 0x18, 0x18, 0x18, 0xFF, 0xFF] ++
  [0xFF, 0xFF, 0x03, 0x03, 0xFF, 0xFF, 0xC0, 0xC0, 0xFF, 0xFF] ++
  [0xFF, 0xFF, 0x03, 0x03, 0xFF, 0xFF, 0x03, 0x03, 0xFF, 0xFF] ++
  [0xC3, 0xC3, 0xC3, 0xC3, 0xFF, 0xFF, 0x03, 0x03, 0x03, 0x03] ++
  [0xFF, 0xFF, 0xC0, 0xC0, 0xFF, 0xFF, 0x03, 0x03, 0xFF, 0xFF] ++
  [0xFF, 0xFF, 0xC0, 0xC0, 0xFF, 0xFF, 0xC3, 0xC3, 0xFF, 0xFF] ++
  [0xFF, 0xFF, 0x03, 0x03, 0x06, 0x0C, 0x18, 0x18, 0x18, 0x18] ++
  [0xFF, 0xFF, 0xC3, 0xC3, 0xFF, 0xFF, 0xC3, 0xC3, 0xFF, 0xFF] ++
  [0xFF, 0xFF, 0xC3, 0xC3, 0xFF, 0xFF, 0x03, 0x03, 0xFF, 0xFF]

/-- The default of every OPEN parameter (`00_scope.md` R9, `92_eei_decisions.md` D5 to D10, D13; log entries 2 to 8). -/
def defaultParams : Config.Params where
  shiftSource := .vx
  loadStoreIMode := .unchanged
  strict59 := false
  group0Match := .lowByte
  keyIndexPolicy := .fault
  scrollLowres := .physical
  smallFont := ⟨⟨smallFontBytes⟩, rfl⟩
  largeFont := ⟨⟨largeFontBytes⟩, rfl⟩

/-- `RESET_PC` (`00_scope.md` R9, D2; log entry 10). -/
def resetPc : Addr := 0x200

/-- `CALL_DEPTH`: 16 nested CALLs succeed (`00_scope.md` R9, D3; log entry 11). -/
def callDepth : Nat := 16

/-- `ROM_BASE` (`00_scope.md` R9). -/
def romBase : Addr := 0x200

/-- `ROM_MAX`, in bytes (`00_scope.md` R9). -/
def romMax : Nat := 3584

/-- `KEYWAIT_SCAN`: LD Vx, K scans the keys below this index (`00_scope.md` R9, `46_timers_index_memory.md` R331). -/
def keyWaitScan : Nat := 15

end Sys2Proof.Machine
end

