-- ==== Sys2Proof/Syntax.lean ====
section
/-! DEFINITION. The forty instructions, one constructor per row of `30_encoding.md` R112 (`opcode_table.json`), in its
order, with the operands R102 gives each. -/

namespace Sys2Proof

/-- An instruction of the core (`30_encoding.md` R112). Operands are the fields of R101 at their widths, so no operand
is out of range. A nibble the decoder ignores is no operand. -/
inductive Instr where
  /-- row 1, `0?E0` -/
  | cls
  /-- row 2, `0?EE` -/
  | ret
  /-- row 3, `0?FD` -/
  | exit
  /-- row 4, `0?FF` -/
  | high
  /-- row 5, `0?FE` -/
  | low
  /-- row 6, `0?Cn`: scroll down by n -/
  | scd (n : Nibble)
  /-- row 7, `0?FB` -/
  | scr
  /-- row 8, `0?FC` -/
  | scl
  /-- row 9, `1aaa` -/
  | jp (nnn : Addr)
  /-- row 10, `2aaa` -/
  | call (nnn : Addr)
  /-- row 11, `3xkk`: SE Vx, nn -/
  | seImm (x : Nibble) (nn : Byte)
  /-- row 12, `4xkk`: SNE Vx, nn -/
  | sneImm (x : Nibble) (nn : Byte)
  /-- row 13, `5xy?`: SE Vx, Vy -/
  | seReg (x y : Nibble)
  /-- row 14, `9xy?`: SNE Vx, Vy -/
  | sneReg (x y : Nibble)
  /-- row 15, `6xkk`: LD Vx, nn -/
  | ldImm (x : Nibble) (nn : Byte)
  /-- row 16, `7xkk`: ADD Vx, nn -/
  | addImm (x : Nibble) (nn : Byte)
  /-- row 17, `8xy0`: LD Vx, Vy -/
  | ldReg (x y : Nibble)
  /-- row 18, `8xy1`: OR Vx, Vy -/
  | orReg (x y : Nibble)
  /-- row 19, `8xy2`: AND Vx, Vy -/
  | andReg (x y : Nibble)
  /-- row 20, `8xy3`: XOR Vx, Vy -/
  | xorReg (x y : Nibble)
  /-- row 21, `8xy4`: ADD Vx, Vy -/
  | addReg (x y : Nibble)
  /-- row 22, `8xy5`: SUB Vx, Vy -/
  | sub (x y : Nibble)
  /-- row 23, `8xy6`: SHR Vx {, Vy} -/
  | shr (x y : Nibble)
  /-- row 24, `8xy7`: SUBN Vx, Vy -/
  | subn (x y : Nibble)
  /-- row 25, `8xyE`: SHL Vx {, Vy} -/
  | shl (x y : Nibble)
  /-- row 26, `Aaaa`: LD I, nnn -/
  | ldI (nnn : Addr)
  /-- row 27, `Baaa`: JP V0, nnn -/
  | jpV0 (nnn : Addr)
  /-- row 28, `Cxkk` -/
  | rnd (x : Nibble) (nn : Byte)
  /-- row 29, `Dxyn` -/
  | drw (x y n : Nibble)
  /-- row 30, `Ex9E` -/
  | skp (x : Nibble)
  /-- row 31, `ExA1` -/
  | sknp (x : Nibble)
  /-- row 32, `Fx07`: LD Vx, DT -/
  | ldVxDt (x : Nibble)
  /-- row 33, `Fx0A`: LD Vx, K -/
  | ldVxK (x : Nibble)
  /-- row 34, `Fx15`: LD DT, Vx -/
  | ldDtVx (x : Nibble)
  /-- row 35, `Fx18`: LD ST, Vx -/
  | ldStVx (x : Nibble)
  /-- row 36, `Fx1E`: ADD I, Vx -/
  | addI (x : Nibble)
  /-- row 37, `Fx29`: LD F, Vx -/
  | ldF (x : Nibble)
  /-- row 38, `Fx33`: LD B, Vx -/
  | ldB (x : Nibble)
  /-- row 39, `Fx55`: LD [I], Vx -/
  | ldMemVx (x : Nibble)
  /-- row 40, `Fx65`: LD Vx, [I] -/
  | ldVxMem (x : Nibble)
  deriving DecidableEq, Repr

/-- Why the decoder reads no instruction. -/
inductive Rejection where
  /-- Fewer than the two bytes an instruction takes (R100). Only `decodeBytes` answers it; a fetch never does. -/
  | truncated
  /-- The word is UNKNOWN (`30_encoding.md` R120). The core runs it as a no-op. -/
  | unknown (op : Word)
  deriving DecidableEq, Repr

/-- What the decoder reads from bits: one of the forty instructions, or a rejection by name (`30_encoding.md` R121). -/
inductive Decoded where
  | instr (i : Instr)
  | rejected (r : Rejection)
  deriving DecidableEq, Repr

/-- The row of `30_encoding.md` R112 an instruction stands for. -/
def Instr.rowNumber : Instr → Nat
  | .cls => 1
  | .ret => 2
  | .exit => 3
  | .high => 4
  | .low => 5
  | .scd _ => 6
  | .scr => 7
  | .scl => 8
  | .jp _ => 9
  | .call _ => 10
  | .seImm _ _ => 11
  | .sneImm _ _ => 12
  | .seReg _ _ => 13
  | .sneReg _ _ => 14
  | .ldImm _ _ => 15
  | .addImm _ _ => 16
  | .ldReg _ _ => 17
  | .orReg _ _ => 18
  | .andReg _ _ => 19
  | .xorReg _ _ => 20
  | .addReg _ _ => 21
  | .sub _ _ => 22
  | .shr _ _ => 23
  | .subn _ _ => 24
  | .shl _ _ => 25
  | .ldI _ => 26
  | .jpV0 _ => 27
  | .rnd _ _ => 28
  | .drw _ _ _ => 29
  | .skp _ => 30
  | .sknp _ => 31
  | .ldVxDt _ => 32
  | .ldVxK _ => 33
  | .ldDtVx _ => 34
  | .ldStVx _ => 35
  | .addI _ => 36
  | .ldF _ => 37
  | .ldB _ => 38
  | .ldMemVx _ => 39
  | .ldVxMem _ => 40

end Sys2Proof
end

