-- ==== Sys2Proof/WellFormed.lean ====
section
/-! DEFINITION. Well-formed instructions: every operand lies in the range `30_encoding.md` R102 gives its field. The
constructors of `Instr` already carry operands at the width of their field, so every instruction passes
(`Sys2Proof.Instr.wellFormed_all`); the checks are stated on plain numbers so that they can refuse one. -/

namespace Sys2Proof

/-- A register number: any of V0..VF may be selected (R102). -/
def isRegister (k : Nat) : Bool := k < 16

/-- The 4-bit immediate n, 0..15, with 0 legal (R102). -/
def isN (k : Nat) : Bool := k < 16

/-- The 8-bit immediate nn, 0..255 (R102). -/
def isNn (k : Nat) : Bool := k < 256

/-- The 12-bit address nnn, 0..4095 (R102). -/
def isNnn (k : Nat) : Bool := k < 4096

/-- Every operand of the instruction is in its field's range (R102). -/
def Instr.wellFormed : Instr → Bool
  | .cls => true
  | .ret => true
  | .exit => true
  | .high => true
  | .low => true
  | .scd n => isN n.toNat
  | .scr => true
  | .scl => true
  | .jp nnn => isNnn nnn.toNat
  | .call nnn => isNnn nnn.toNat
  | .seImm x nn => isRegister x.toNat && isNn nn.toNat
  | .sneImm x nn => isRegister x.toNat && isNn nn.toNat
  | .seReg x y => isRegister x.toNat && isRegister y.toNat
  | .sneReg x y => isRegister x.toNat && isRegister y.toNat
  | .ldImm x nn => isRegister x.toNat && isNn nn.toNat
  | .addImm x nn => isRegister x.toNat && isNn nn.toNat
  | .ldReg x y => isRegister x.toNat && isRegister y.toNat
  | .orReg x y => isRegister x.toNat && isRegister y.toNat
  | .andReg x y => isRegister x.toNat && isRegister y.toNat
  | .xorReg x y => isRegister x.toNat && isRegister y.toNat
  | .addReg x y => isRegister x.toNat && isRegister y.toNat
  | .sub x y => isRegister x.toNat && isRegister y.toNat
  | .shr x y => isRegister x.toNat && isRegister y.toNat
  | .subn x y => isRegister x.toNat && isRegister y.toNat
  | .shl x y => isRegister x.toNat && isRegister y.toNat
  | .ldI nnn => isNnn nnn.toNat
  | .jpV0 nnn => isNnn nnn.toNat
  | .rnd x nn => isRegister x.toNat && isNn nn.toNat
  | .drw x y n => isRegister x.toNat && isRegister y.toNat && isN n.toNat
  | .skp x => isRegister x.toNat
  | .sknp x => isRegister x.toNat
  | .ldVxDt x => isRegister x.toNat
  | .ldVxK x => isRegister x.toNat
  | .ldDtVx x => isRegister x.toNat
  | .ldStVx x => isRegister x.toNat
  | .addI x => isRegister x.toNat
  | .ldF x => isRegister x.toNat
  | .ldB x => isRegister x.toNat
  | .ldMemVx x => isRegister x.toNat
  | .ldVxMem x => isRegister x.toNat

end Sys2Proof
end

