-- ==== Sys2Proof/Decode.lean ====
section
/-! DEFINITION. The decoder of `30_encoding.md` R110, total on every word and on any bytes; the encoder, from the same
encodings; and the opcode map of R112 as a table of nibble patterns. The numbers are the spec's decision D1 (log entry 9). -/

namespace Sys2Proof

/-- Field `t`, bits 15:12, the group selector (R101). -/
def fieldT (op : Word) : Nibble := op.extractLsb' 12 4

/-- Field `x`, bits 11:8 (R101). -/
def fieldX (op : Word) : Nibble := op.extractLsb' 8 4

/-- Field `y`, bits 7:4 (R101). -/
def fieldY (op : Word) : Nibble := op.extractLsb' 4 4

/-- Field `n`, bits 3:0 (R101). -/
def fieldN (op : Word) : Nibble := op.extractLsb' 0 4

/-- Field `nn`, bits 7:0 (R101). -/
def fieldNn (op : Word) : Byte := op.extractLsb' 0 8

/-- Field `nnn`, bits 11:0 (R101). -/
def fieldNnn (op : Word) : Addr := op.extractLsb' 0 12

/-- Group 0: on `nn`, after the test of x under `GROUP0_MATCH` = `full_word` (R110, D8). -/
def decodeGroup0 (p : Config.Params) (op : Word) : Decoded :=
  if p.group0Match = .fullWord ∧ fieldX op ≠ 0 then .rejected (.unknown op)
  else match fieldNn op with
    | 0xE0#8 => .instr .cls
    | 0xEE#8 => .instr .ret
    | 0xFB#8 => .instr .scr
    | 0xFC#8 => .instr .scl
    | 0xFD#8 => .instr .exit
    | 0xFE#8 => .instr .low
    | 0xFF#8 => .instr .high
    | _ => if fieldY op = 0xC then .instr (.scd (fieldN op)) else .rejected (.unknown op)

/-- Group 5: n is tested only under `STRICT_5_9` (R110, D7). -/
def decodeGroup5 (p : Config.Params) (op : Word) : Decoded :=
  if p.strict59 ∧ fieldN op ≠ 0 then .rejected (.unknown op)
  else .instr (.seReg (fieldX op) (fieldY op))

/-- Group 8: on `n` (R110). -/
def decodeGroup8 (op : Word) : Decoded :=
  match fieldN op with
  | 0x0#4 => .instr (.ldReg (fieldX op) (fieldY op))
  | 0x1#4 => .instr (.orReg (fieldX op) (fieldY op))
  | 0x2#4 => .instr (.andReg (fieldX op) (fieldY op))
  | 0x3#4 => .instr (.xorReg (fieldX op) (fieldY op))
  | 0x4#4 => .instr (.addReg (fieldX op) (fieldY op))
  | 0x5#4 => .instr (.sub (fieldX op) (fieldY op))
  | 0x6#4 => .instr (.shr (fieldX op) (fieldY op))
  | 0x7#4 => .instr (.subn (fieldX op) (fieldY op))
  | 0xE#4 => .instr (.shl (fieldX op) (fieldY op))
  | _ => .rejected (.unknown op)

/-- Group 9: n is tested only under `STRICT_5_9` (R110, D7). -/
def decodeGroup9 (p : Config.Params) (op : Word) : Decoded :=
  if p.strict59 ∧ fieldN op ≠ 0 then .rejected (.unknown op)
  else .instr (.sneReg (fieldX op) (fieldY op))

/-- Group E: on `nn` (R110). -/
def decodeGroupE (op : Word) : Decoded :=
  match fieldNn op with
  | 0x9E#8 => .instr (.skp (fieldX op))
  | 0xA1#8 => .instr (.sknp (fieldX op))
  | _ => .rejected (.unknown op)

/-- Group F: on `nn` (R110). -/
def decodeGroupF (op : Word) : Decoded :=
  match fieldNn op with
  | 0x07#8 => .instr (.ldVxDt (fieldX op))
  | 0x0A#8 => .instr (.ldVxK (fieldX op))
  | 0x15#8 => .instr (.ldDtVx (fieldX op))
  | 0x18#8 => .instr (.ldStVx (fieldX op))
  | 0x1E#8 => .instr (.addI (fieldX op))
  | 0x29#8 => .instr (.ldF (fieldX op))
  | 0x33#8 => .instr (.ldB (fieldX op))
  | 0x55#8 => .instr (.ldMemVx (fieldX op))
  | 0x65#8 => .instr (.ldVxMem (fieldX op))
  | _ => .rejected (.unknown op)

/-- The decode function (R110), total on all 65536 words. It reads the word and the two decode parameters, no state
(R111). -/
def decode (p : Config.Params) (op : Word) : Decoded :=
  match fieldT op with
  | 0x0#4 => decodeGroup0 p op
  | 0x1#4 => .instr (.jp (fieldNnn op))
  | 0x2#4 => .instr (.call (fieldNnn op))
  | 0x3#4 => .instr (.seImm (fieldX op) (fieldNn op))
  | 0x4#4 => .instr (.sneImm (fieldX op) (fieldNn op))
  | 0x5#4 => decodeGroup5 p op
  | 0x6#4 => .instr (.ldImm (fieldX op) (fieldNn op))
  | 0x7#4 => .instr (.addImm (fieldX op) (fieldNn op))
  | 0x8#4 => decodeGroup8 op
  | 0x9#4 => decodeGroup9 p op
  | 0xA#4 => .instr (.ldI (fieldNnn op))
  | 0xB#4 => .instr (.jpV0 (fieldNnn op))
  | 0xC#4 => .instr (.rnd (fieldX op) (fieldNn op))
  | 0xD#4 => .instr (.drw (fieldX op) (fieldY op) (fieldN op))
  | 0xE#4 => decodeGroupE op
  | _ => decodeGroupF op

/-- A word from the two bytes of a fetch, the first in bits 15:8 (`20_memory.md` R71). -/
def wordOfBytes (hi lo : Byte) : Word := hi ++ lo

/-- The two bytes of a word as memory holds them, bits 15:8 at the lower address (`20_memory.md` R71). -/
def bytesOfWord (op : Word) : List Byte := [op.extractLsb' 8 8, op.extractLsb' 0 8]

/-- The decoder on a list of bytes: what the first two read as, and the bytes after them. -/
def decodeBytes (p : Config.Params) : List Byte → Decoded × List Byte
  | hi :: lo :: rest => (decode p (wordOfBytes hi lo), rest)
  | bytes => (.rejected .truncated, bytes)

/-- The word `t x y n` by nibbles (R101). -/
def wordOfNibbles (t x y n : Nibble) : Word := (t ++ x ++ y ++ n : BitVec (4 + 4 + 4 + 4))

/-- The word `t x nn` (R101). -/
def wordOfByte (t x : Nibble) (nn : Byte) : Word := (t ++ x ++ nn : BitVec (4 + 4 + 8))

/-- The word `t nnn` (R101). -/
def wordOfAddr (t : Nibble) (nnn : Addr) : Word := (t ++ nnn : BitVec (4 + 12))

/-- The encoder: the word of an instruction, from the patterns of R112, with 0 in a nibble the decoder ignores. -/
def encode : Instr → Word
  | .cls => 0x00E0
  | .ret => 0x00EE
  | .exit => 0x00FD
  | .high => 0x00FF
  | .low => 0x00FE
  | .scd n => wordOfNibbles 0x0 0x0 0xC n
  | .scr => 0x00FB
  | .scl => 0x00FC
  | .jp nnn => wordOfAddr 0x1 nnn
  | .call nnn => wordOfAddr 0x2 nnn
  | .seImm x nn => wordOfByte 0x3 x nn
  | .sneImm x nn => wordOfByte 0x4 x nn
  | .seReg x y => wordOfNibbles 0x5 x y 0x0
  | .sneReg x y => wordOfNibbles 0x9 x y 0x0
  | .ldImm x nn => wordOfByte 0x6 x nn
  | .addImm x nn => wordOfByte 0x7 x nn
  | .ldReg x y => wordOfNibbles 0x8 x y 0x0
  | .orReg x y => wordOfNibbles 0x8 x y 0x1
  | .andReg x y => wordOfNibbles 0x8 x y 0x2
  | .xorReg x y => wordOfNibbles 0x8 x y 0x3
  | .addReg x y => wordOfNibbles 0x8 x y 0x4
  | .sub x y => wordOfNibbles 0x8 x y 0x5
  | .shr x y => wordOfNibbles 0x8 x y 0x6
  | .subn x y => wordOfNibbles 0x8 x y 0x7
  | .shl x y => wordOfNibbles 0x8 x y 0xE
  | .ldI nnn => wordOfAddr 0xA nnn
  | .jpV0 nnn => wordOfAddr 0xB nnn
  | .rnd x nn => wordOfByte 0xC x nn
  | .drw x y n => wordOfNibbles 0xD x y n
  | .skp x => wordOfByte 0xE x 0x9E
  | .sknp x => wordOfByte 0xE x 0xA1
  | .ldVxDt x => wordOfByte 0xF x 0x07
  | .ldVxK x => wordOfByte 0xF x 0x0A
  | .ldDtVx x => wordOfByte 0xF x 0x15
  | .ldStVx x => wordOfByte 0xF x 0x18
  | .addI x => wordOfByte 0xF x 0x1E
  | .ldF x => wordOfByte 0xF x 0x29
  | .ldB x => wordOfByte 0xF x 0x33
  | .ldMemVx x => wordOfByte 0xF x 0x55
  | .ldVxMem x => wordOfByte 0xF x 0x65

/-- The bytes of an instruction as memory holds them (`20_memory.md` R71). -/
def encodeBytes (i : Instr) : List Byte := bytesOfWord (encode i)

/-- One nibble of a pattern of R112: a fixed digit, an operand's nibble, or a `?` nibble, which one of the two decode
parameters has the decoder ignore or need to be 0. -/
inductive NibblePattern where
  | digit (v : Nibble)
  | operand
  | ignoredByGroup0
  | ignoredByGroups59
  deriving DecidableEq, Repr

/-- One row of the opcode map (R112): its number and the patterns of its four nibbles, first t, last n. -/
structure OpcodeRow where
  number : Nat
  t : NibblePattern
  x : NibblePattern
  y : NibblePattern
  n : NibblePattern
  deriving DecidableEq, Repr

/-- Whether a nibble fits a pattern, under the decode parameters (R112: "Under the alternative value, a `?` nibble must be
0"). -/
def nibbleFits (p : Config.Params) (v : Nibble) : NibblePattern → Bool
  | .digit d => v == d
  | .operand => true
  | .ignoredByGroup0 => p.group0Match == .lowByte || v == 0
  | .ignoredByGroups59 => !p.strict59 || v == 0

/-- Whether a word matches a row of the map. -/
def rowMatches (p : Config.Params) (op : Word) (r : OpcodeRow) : Bool :=
  nibbleFits p (fieldT op) r.t && nibbleFits p (fieldX op) r.x
    && nibbleFits p (fieldY op) r.y && nibbleFits p (fieldN op) r.n

/-- Rows 1 to 8, `0?..`. -/
def opcodeRowsGroup0 : List OpcodeRow :=
  [⟨1, .digit 0x0, .ignoredByGroup0, .digit 0xE, .digit 0x0⟩,
   ⟨2, .digit 0x0, .ignoredByGroup0, .digit 0xE, .digit 0xE⟩,
   ⟨3, .digit 0x0, .ignoredByGroup0, .digit 0xF, .digit 0xD⟩,
   ⟨4, .digit 0x0, .ignoredByGroup0, .digit 0xF, .digit 0xF⟩,
   ⟨5, .digit 0x0, .ignoredByGroup0, .digit 0xF, .digit 0xE⟩,
   ⟨6, .digit 0x0, .ignoredByGroup0, .digit 0xC, .operand⟩,
   ⟨7, .digit 0x0, .ignoredByGroup0, .digit 0xF, .digit 0xB⟩,
   ⟨8, .digit 0x0, .ignoredByGroup0, .digit 0xF, .digit 0xC⟩]

/-- Rows 9 to 16. -/
def opcodeRowsFlow : List OpcodeRow :=
  [⟨9, .digit 0x1, .operand, .operand, .operand⟩,
   ⟨10, .digit 0x2, .operand, .operand, .operand⟩,
   ⟨11, .digit 0x3, .operand, .operand, .operand⟩,
   ⟨12, .digit 0x4, .operand, .operand, .operand⟩,
   ⟨13, .digit 0x5, .operand, .operand, .ignoredByGroups59⟩,
   ⟨14, .digit 0x9, .operand, .operand, .ignoredByGroups59⟩,
   ⟨15, .digit 0x6, .operand, .operand, .operand⟩,
   ⟨16, .digit 0x7, .operand, .operand, .operand⟩]

/-- Rows 17 to 25, `8xy.`. -/
def opcodeRowsGroup8 : List OpcodeRow :=
  [⟨17, .digit 0x8, .operand, .operand, .digit 0x0⟩,
   ⟨18, .digit 0x8, .operand, .operand, .digit 0x1⟩,
   ⟨19, .digit 0x8, .operand, .operand, .digit 0x2⟩,
   ⟨20, .digit 0x8, .operand, .operand, .digit 0x3⟩,
   ⟨21, .digit 0x8, .operand, .operand, .digit 0x4⟩,
   ⟨22, .digit 0x8, .operand, .operand, .digit 0x5⟩,
   ⟨23, .digit 0x8, .operand, .operand, .digit 0x6⟩,
   ⟨24, .digit 0x8, .operand, .operand, .digit 0x7⟩,
   ⟨25, .digit 0x8, .operand, .operand, .digit 0xE⟩]

/-- Rows 26 to 31. -/
def opcodeRowsIndexToKeys : List OpcodeRow :=
  [⟨26, .digit 0xA, .operand, .operand, .operand⟩,
   ⟨27, .digit 0xB, .operand, .operand, .operand⟩,
   ⟨28, .digit 0xC, .operand, .operand, .operand⟩,
   ⟨29, .digit 0xD, .operand, .operand, .operand⟩,
   ⟨30, .digit 0xE, .operand, .digit 0x9, .digit 0xE⟩,
   ⟨31, .digit 0xE, .operand, .digit 0xA, .digit 0x1⟩]

/-- Rows 32 to 40, `Fx..`. -/
def opcodeRowsGroupF : List OpcodeRow :=
  [⟨32, .digit 0xF, .operand, .digit 0x0, .digit 0x7⟩,
   ⟨33, .digit 0xF, .operand, .digit 0x0, .digit 0xA⟩,
   ⟨34, .digit 0xF, .operand, .digit 0x1, .digit 0x5⟩,
   ⟨35, .digit 0xF, .operand, .digit 0x1, .digit 0x8⟩,
   ⟨36, .digit 0xF, .operand, .digit 0x1, .digit 0xE⟩,
   ⟨37, .digit 0xF, .operand, .digit 0x2, .digit 0x9⟩,
   ⟨38, .digit 0xF, .operand, .digit 0x3, .digit 0x3⟩,
   ⟨39, .digit 0xF, .operand, .digit 0x5, .digit 0x5⟩,
   ⟨40, .digit 0xF, .operand, .digit 0x6, .digit 0x5⟩]

/-- The opcode map (R112), one row per instruction. -/
def opcodeMap : List OpcodeRow :=
  opcodeRowsGroup0 ++ opcodeRowsFlow ++ opcodeRowsGroup8 ++ opcodeRowsIndexToKeys ++ opcodeRowsGroupF

/-- What the decoder reads from an opcode-table row's bits, at the default parameters: the low `nbits` bits of `w`, laid
out as memory holds them. -/
def decodeTableWord (nbits w : Nat) : Option Instr :=
  match (decodeBytes Machine.defaultParams (bytesOfWord (BitVec.ofNat 16 (w % 2 ^ nbits)))).1 with
  | .instr i => some i
  | .rejected _ => none

end Sys2Proof
end

