-- ==== Sys2Proof/Machine/State.lean ====
section
/-! DEFINITION. The state of the machine (`10_state.md` R30), the reasons a step can stop, and the state after
construction (`10_state.md` R54, `70_reset_and_hazards.md` R420). -/

namespace Sys2Proof.Machine

/-- Memory as the bytes that differ from what an unlisted address reads as, by address, strictly rising. `Memory.wf` in
Ops.lean states the form. -/
abbrev Memory := List Host.Cell

/-- The display buffer, 128 x 64 cells of one bit (`10_state.md` R40). DESIGN CHOICE (log entry 19): row py is a word of
128 bits, and the cell of column px, row py is bit px of row py. -/
abbrev Display := Vector (BitVec 128) 64

/-- The key array, true means pressed (`10_state.md` R41). -/
abbrev Keys := Vector Bool 16

/-- One `advance` call of the host (`60_exceptions.md` R390) and what the host does to the keys after it (R392). -/
structure HostTick where
  /-- The cycles the call has still to run before its timer step. -/
  cycles : Nat
  /-- The key array the host leaves when the call has returned. -/
  nextKeys : Keys
  deriving DecidableEq, Repr

/-- Why the machine stops with a fault. -/
inductive Fault where
  /-- `Fault(KeyIndexOutOfRange)` of `45_keys.md` R312, with the PC of the faulting instruction as `60_exceptions.md` R372
  asks. Raised by SKP and SKNP when V[x] > 15 and `KEY_INDEX_POLICY` is `fault`. Safe: the model stops where the core may
  go on. -/
  | keyIndexOutOfRange (pc : Addr)
  deriving DecidableEq, Repr

/-- Why a step has no meaning. -/
inductive Refusal where
  /-- An instruction without a meaning yet. Raised by an arm of `exec` only, and no arm raises it. Safe. -/
  | notModelled (mnemonic : String)
  deriving DecidableEq, Repr

/-- The state. The first ten fields are the core's (`10_state.md` R30), `key` is the host's array the core reads (R41), and
the last three are the model's own (log entries 1, 14 and 15). -/
structure State where
  /-- `mem`, 4096 bytes of code and data (`20_memory.md` R70). -/
  mem : Memory
  /-- `V[0..15]`; VF is `V[15]` (`10_state.md` R31, R32). -/
  v : Vector Byte 16
  /-- The index register I, 12 bits (`10_state.md` R33). -/
  i : Addr
  /-- The program counter PC, 12 bits (`10_state.md` R34). -/
  pc : Addr
  /-- The stack pointer SP, -1 for empty, else the index of the top slot (`10_state.md` R38). -/
  sp : Int
  /-- `stack[0..15]`, 16 bits each, outside memory (`10_state.md` R35). -/
  stack : Vector Word 16
  /-- The delay timer DT (`10_state.md` R36). -/
  dt : Byte
  /-- The sound timer ST (`10_state.md` R36). -/
  st : Byte
  /-- The display buffer (`10_state.md` R40). -/
  disp : Display
  /-- The extended-mode flag, the core's only control register (`10_state.md` R37). -/
  ext : Bool
  /-- `key[0..15]`, host-owned (`10_state.md` R41). -/
  key : Keys
  /-- MODEL'S OWN: random bytes consumed so far, the index of the next one (`60_exceptions.md` R395; log entry 14). -/
  draws : Nat
  /-- MODEL'S OWN: the host's `advance` calls, the one in progress first (`60_exceptions.md` R390; log entry 15). -/
  ticks : List HostTick
  /-- MODEL'S OWN: the OPEN parameters of `00_scope.md` R9; no step writes them (log entry 1). -/
  params : Config.Params
  deriving DecidableEq, Repr

/-- What an instruction's execution, a cycle or a step answers. -/
abbrev Result := Host.Outcome State Fault Refusal

/-- Construction, the only reset (`70_reset_and_hazards.md` R420), at given parameters: the values of `10_state.md` R54.
Memory lists nothing, because an unlisted address reads as construction left it. -/
def State.construct (p : Config.Params) : State where
  mem := []
  v := Vector.replicate 16 0
  i := 0
  pc := resetPc
  sp := -1
  stack := Vector.replicate 16 0
  dt := 0
  st := 0
  disp := Vector.replicate 64 0
  ext := false
  key := Vector.replicate 16 false
  draws := 0
  ticks := []
  params := p

/-- The machine right after reset, at the default parameters (`00_scope.md` R9). -/
def State.reset : State := State.construct defaultParams

end Sys2Proof.Machine
end

