-- ==== Sys2Proof/Machine/Ops.lean ====
section
/-! DEFINITION. The named operations over memory, registers, PC, the call stack, the timers and the random-byte port.
The core has no exception to take and none to return from (`60_exceptions.md` R370, R375, R376); the one model fault of
R372 is `raiseKeyIndexFault`. -/

namespace Sys2Proof.Machine

/-! ## Memory -/

/-- What an address reads as while nothing has written it: the contents construction leaves (`10_state.md` R54,
`20_memory.md` R77). -/
def resetByte (p : Config.Params) (a : Nat) : Byte :=
  if h : a < 80 then p.smallFont[a]
  else if h' : a < 180 then p.largeFont[a - 80]'(by omega)
  else 0

/-- The byte listed at an address, if one is. -/
def Memory.find : Memory → Nat → Option Byte
  | [], _ => none
  | (c, b) :: rest, a => if c = a then some b else Memory.find rest a

/-- The byte at an address. -/
def Memory.read (p : Config.Params) (m : Memory) (a : Nat) : Byte := (Memory.find m a).getD (resetByte p a)

/-- Memory with one byte written, in the canonical form: a byte equal to what the unlisted address reads as is not
listed. -/
def Memory.write (p : Config.Params) : Memory → Nat → Byte → Memory
  | [], a, b => if b = resetByte p a then [] else [(a, b)]
  | (c, x) :: rest, a, b =>
    if a < c then (if b = resetByte p a then (c, x) :: rest else (a, b) :: (c, x) :: rest)
    else if a = c then (if b = resetByte p a then rest else (a, b) :: rest)
    else (c, x) :: Memory.write p rest a b

/-- The canonical form: addresses strictly rising and below 4096, and no byte equal to what its address reads as when
unlisted. -/
def Memory.wf (p : Config.Params) (m : Memory) : Bool :=
  decide (m.Pairwise fun c d => c.1 < d.1) && m.all fun c => c.1 < 4096 && c.2 != resetByte p c.1

/-- `MemRead(a, 1)` (`00_scope.md` R12). The type of the address takes it modulo 4096 (`20_memory.md` R73). -/
def State.memRead (s : State) (a : Addr) : Byte := Memory.read s.params s.mem a.toNat

/-- `MemWrite(a, 1, b)` (`00_scope.md` R12, `20_memory.md` R73). -/
def State.memWrite (s : State) (a : Addr) (b : Byte) : State :=
  { s with mem := Memory.write s.params s.mem a.toNat b }

/-- Bytes written one after another at consecutive addresses, each modulo 4096 (`20_memory.md` R72). -/
def State.memWriteBytes (s : State) (a : Addr) : List Byte → State
  | [] => s
  | b :: rest => (s.memWrite a b).memWriteBytes (a + 1) rest

/-! ## Registers -/

/-- `V[x]` (`10_state.md` R31). -/
def State.getV (s : State) (x : Nibble) : Byte := s.v[x.toNat]'x.isLt

/-- `V[x] <- b` (`10_state.md` R31). -/
def State.setV (s : State) (x : Nibble) (b : Byte) : State := { s with v := s.v.set x.toNat b x.isLt }

/-- `for i in 0..x: V[i] <- f i`, where f does not read V (`46_timers_index_memory.md` R340). -/
def replaceUpTo (v : Vector Byte 16) (x : Nibble) (f : Nat → Byte) : Vector Byte 16 :=
  Vector.ofFn fun k => if k.val ≤ x.toNat then f k.val else v[k.val]

/-- The sixteen V registers replaced. -/
def State.setRegs (s : State) (w : Vector Byte 16) : State := { s with v := w }

/-- `I <- a` (`10_state.md` R33). -/
def State.setI (s : State) (a : Addr) : State := { s with i := a }

/-- `PC <- a` (`10_state.md` R34). -/
def State.setPc (s : State) (a : Addr) : State := { s with pc := a }

/-- `DT <- b` (`10_state.md` R36). -/
def State.setDt (s : State) (b : Byte) : State := { s with dt := b }

/-- `ST <- b` (`10_state.md` R36). -/
def State.setSt (s : State) (b : Byte) : State := { s with st := b }

/-- `ext <- e` (`10_state.md` R37). -/
def State.setExt (s : State) (e : Bool) : State := { s with ext := e }

/-- The display buffer replaced (`10_state.md` R40). -/
def State.setDisp (s : State) (d : Display) : State := { s with disp := d }

/-! ## The program counter -/

/-- The uniform advance, `PC <- (PC + 2) mod 4096` (`10_state.md` R45). -/
def State.uniformAdvance (s : State) : State := s.setPc (s.pc + 2)

/-- `jump(T)`: `PC <- (T - 2) mod 4096`, so that the uniform advance lands on T (`10_state.md` R46; log entry 28). -/
def State.jump (s : State) (target : Addr) : State := s.setPc (target - 2)

/-- A skip: `PC <- (PC + 2) mod 4096` if its condition holds (`10_state.md` R47). -/
def State.skipIf (s : State) (condition : Bool) : State := if condition then s.setPc (s.pc + 2) else s

/-- The rewind: `PC <- (PC - 2) mod 4096`, so that the same instruction is fetched again (`10_state.md` R48). -/
def State.rewind (s : State) : State := s.setPc (s.pc - 2)

/-! ## The call stack -/

/-- `SP <- k` (`10_state.md` R38). -/
def State.setSp (s : State) (k : Int) : State := { s with sp := k }

/-- `stack[k] <- w` (`10_state.md` R35). A slot number outside 0..15 is reached from no state with SP in -1..15 (log
entry 20). -/
def State.setSlot (s : State) (k : Int) (w : Word) : State := { s with stack := s.stack.setIfInBounds k.toNat w }

/-- `stack[k]` (`10_state.md` R35; log entry 20). -/
def State.slot (s : State) (k : Int) : Word := s.stack[k.toNat]?.getD 0

/-- The return address a CALL pushes, `(PC + 2) mod 4096`, as a 16-bit slot (`10_state.md` R39; log entry 12). -/
def State.returnAddress (s : State) : Word := (s.pc + 2).setWidth 16

/-- Push: SP moves up, then the slot it names is written (`41_jump_call_skip.md` R182). -/
def State.push (s : State) (w : Word) : State := (s.setSp (s.sp + 1)).setSlot (s.sp + 1) w

/-! ## Timers and the random-byte port -/

/-- A timer goes down by at most 1 and stops at 0 (`60_exceptions.md` R380). -/
def countDown (b : Byte) : Byte := if b.toNat > 0 then b - 1 else b

/-- `timer_step()`, once at the end of every frame tick (`60_exceptions.md` R380). -/
def State.timerStep (s : State) : State := (s.setDt (countDown s.dt)).setSt (countDown s.st)

/-- The byte `draw_random()` gives: a free value (`60_exceptions.md` R395; log entry 14). -/
def State.nextRandom (s : State) : Byte := Config.randomByte s.draws

/-- One random byte consumed (`60_exceptions.md` R395). -/
def State.consumeRandom (s : State) : State := { s with draws := s.draws + 1 }

/-! ## The model fault -/

/-- `raise Fault(KeyIndexOutOfRange)`, with the PC of the faulting instruction (`60_exceptions.md` R372; log entry 13). -/
def State.raiseKeyIndexFault (s : State) : Result := .fault (.keyIndexOutOfRange s.pc)

end Sys2Proof.Machine
end

