-- ==== Sys2Proof/Machine/Flags.lean ====
section
/-! DEFINITION. The flag computations (`10_state.md` R53, `42_alu.md` R225) and the write of VF as a flag, which comes after
the write of the result (`00_scope.md` R14, `10_state.md` R32). -/

namespace Sys2Proof.Machine

/-- The number of VF among the V registers (`00_scope.md` R12). -/
def vf : Nibble := 0xF

/-- A flag's value: 1 or 0. -/
def flagByte (c : Bool) : Byte := if c then 1 else 0

/-- The carry of ADD Vx, Vy: 1 when the 9-bit sum exceeds 255 (`42_alu.md` R217). -/
def carryFlag (a b : Byte) : Byte := flagByte (decide (a.toNat + b.toNat > 255))

/-- The no-borrow flag of `a - b`: 1 when minuend ≥ subtrahend (`42_alu.md` R218, R220). -/
def noBorrowFlag (a b : Byte) : Byte := flagByte (decide (a.toNat ≥ b.toNat))

/-- The bit SHR shifts out, bit 0 of the source (`42_alu.md` R219). -/
def shrFlag (a : Byte) : Byte := flagByte (a.getLsbD 0)

/-- The bit SHL shifts out, bit 7 of the source (`42_alu.md` R221). -/
def shlFlag (a : Byte) : Byte := flagByte (a.getLsbD 7)

/-- `VF <- f` (`10_state.md` R53). -/
def State.setFlag (s : State) (f : Byte) : State := s.setV vf f

/-- The result to V[x], then the flag to VF, so that VF keeps the flag when x = F (`10_state.md` R32). -/
def State.setResultAndFlag (s : State) (x : Nibble) (result f : Byte) : State := (s.setV x result).setFlag f

end Sys2Proof.Machine
end

