-- ==== Sys2Proof/Machine/Operands.lean ====
section
/-! DEFINITION. The operand forms: what an instruction reads besides a plain V register. -/

namespace Sys2Proof.Machine

/-- The register a shift reads, by `SHIFT_SOURCE` (`42_alu.md` R219, R221; log entry 2). -/
def State.shiftOperand (s : State) (x y : Nibble) : Byte :=
  match s.params.shiftSource with
  | .vx => s.getV x
  | .vy => s.getV y

/-- The address `I + k`, modulo 4096 (`46_timers_index_memory.md` R329, `20_memory.md` R73). -/
def State.indexed (s : State) (k : Nat) : Addr := s.i + BitVec.ofNat 12 k

/-- `I + V[x]`, modulo 4096 (`46_timers_index_memory.md` R336). -/
def State.indexPlus (s : State) (x : Nibble) : Addr := s.i + (s.getV x).setWidth 12

/-- `(nnn + V[0]) mod 4096` (`43_index_jump_random.md` R251; log entry 25). -/
def State.v0Target (s : State) (nnn : Addr) : Addr := nnn + (s.getV 0).setWidth 12

/-- The glyph address of LD F, Vx: `5 * V[x]`, or `10 * V[x] + 80` in extended mode, V[x] not masked
(`46_timers_index_memory.md` R337, `20_memory.md` R82; log entry 26). -/
def glyphAddress (ext : Bool) (b : Byte) : Addr :=
  if ext then BitVec.ofNat 12 (10 * b.toNat + 80) else BitVec.ofNat 12 (5 * b.toNat)

/-- I after a block transfer of `V0..Vx`, by `LOADSTORE_I_MODE` (`46_timers_index_memory.md` R339, R340; log entry 3). -/
def State.indexAfterBlock (s : State) (x : Nibble) : Addr :=
  match s.params.loadStoreIMode with
  | .unchanged => s.i
  | .plusX => s.indexed x.toNat
  | .plusXPlus1 => s.indexed (x.toNat + 1)

/-- The registers `V0..Vx`, V0 first, as the bytes LD [I], Vx stores (`46_timers_index_memory.md` R339). -/
def State.blockBytes (s : State) (x : Nibble) : List Byte :=
  (List.range (x.toNat + 1)).map fun k => s.getV (BitVec.ofNat 4 k)

/-- The decimal digits of a byte, hundreds first (`46_timers_index_memory.md` R338). -/
def decimalDigits (b : Byte) : List Byte :=
  [BitVec.ofNat 8 (b.toNat / 100), BitVec.ofNat 8 (b.toNat / 10 % 10), BitVec.ofNat 8 (b.toNat % 10)]

/-- `key[k]` for k in 0..15 (`10_state.md` R41). -/
def State.keyDown (s : State) (k : Nibble) : Bool := s.key[k.toNat]'k.isLt

/-- `pressed(v)`: the key a V register names, by `KEY_INDEX_POLICY` above 15; `none` where the policy is to raise the fault
(`45_keys.md` R312; log entry 6). -/
def State.pressed (s : State) (b : Byte) : Option Bool :=
  if b.toNat ≤ 15 then some (s.keyDown (b.setWidth 4))
  else match s.params.keyIndexPolicy with
    | .fault => none
    | .lowNibble => some (s.keyDown (b.setWidth 4))
    | .notPressed => some false

/-- The lowest pressed key among 0..14 (`46_timers_index_memory.md` R331; log entry 29). -/
def State.lowestKey (s : State) : Option Nat :=
  (List.range keyWaitScan).find? fun k => s.keyDown (BitVec.ofNat 4 k)

end Sys2Proof.Machine
end

