-- ==== Sys2Proof/Machine/Alu.lean ====
section
/-! DEFINITION. The execute step of the register arithmetic and logic (`42_alu.md`). Byte arithmetic wraps modulo 256
(R225). -/

namespace Sys2Proof.Machine

/-- LD Vx, nn (R211). -/
def execLdImm (x : Nibble) (nn : Byte) (s : State) : Result := .next (s.setV x nn)

/-- ADD Vx, nn (R212): no carry flag. -/
def execAddImm (x : Nibble) (nn : Byte) (s : State) : Result := .next (s.setV x (s.getV x + nn))

/-- LD Vx, Vy (R213). -/
def execLdReg (x y : Nibble) (s : State) : Result := .next (s.setV x (s.getV y))

/-- OR Vx, Vy (R214): VF is not reset. -/
def execOr (x y : Nibble) (s : State) : Result := .next (s.setV x (s.getV x ||| s.getV y))

/-- AND Vx, Vy (R215). -/
def execAnd (x y : Nibble) (s : State) : Result := .next (s.setV x (s.getV x &&& s.getV y))

/-- XOR Vx, Vy (R216). -/
def execXor (x y : Nibble) (s : State) : Result := .next (s.setV x (s.getV x ^^^ s.getV y))

/-- ADD Vx, Vy (R217): VF is the carry, written last. -/
def execAddReg (x y : Nibble) (s : State) : Result :=
  .next (s.setResultAndFlag x (s.getV x + s.getV y) (carryFlag (s.getV x) (s.getV y)))

/-- SUB Vx, Vy (R218): Vx - Vy, VF is no-borrow, written last. -/
def execSub (x y : Nibble) (s : State) : Result :=
  .next (s.setResultAndFlag x (s.getV x - s.getV y) (noBorrowFlag (s.getV x) (s.getV y)))

/-- SHR Vx {, Vy} (R219): VF is the low bit shifted out, written last. -/
def execShr (x y : Nibble) (s : State) : Result :=
  .next (s.setResultAndFlag x (s.shiftOperand x y >>> 1) (shrFlag (s.shiftOperand x y)))

/-- SUBN Vx, Vy (R220; `90_conflicts.md` C3): Vy - Vx, VF is no-borrow, written last. -/
def execSubn (x y : Nibble) (s : State) : Result :=
  .next (s.setResultAndFlag x (s.getV y - s.getV x) (noBorrowFlag (s.getV y) (s.getV x)))

/-- SHL Vx {, Vy} (R221): VF is the high bit shifted out, written last. -/
def execShl (x y : Nibble) (s : State) : Result :=
  .next (s.setResultAndFlag x (s.shiftOperand x y <<< 1) (shlFlag (s.shiftOperand x y)))

end Sys2Proof.Machine
end

