-- ==== Sys2Proof/Machine/Display.lean ====
section
/-! DEFINITION. The display buffer: its cells, the three scrolls (`40_system_mode_scroll.md` R150) and the sprite draw
(`44_draw.md` R270 to R279). -/

namespace Sys2Proof.Machine

/-- A buffer with every cell false (`40_system_mode_scroll.md` R141). -/
def blankDisplay : Display := Vector.replicate 64 0

/-- `disp[px][py]` (`10_state.md` R40): column px from the left, row py from the top; false outside the buffer. -/
def Display.pixel (d : Display) (px py : Nat) : Bool := (d[py]?.getD 0).getLsbD px

/-- `disp[px][py] <- not disp[px][py]` (`44_draw.md` R275). -/
def Display.toggle (d : Display) (px py : Nat) : Display :=
  d.setIfInBounds py ((d[py]?.getD 0) ^^^ BitVec.twoPow 128 px)

/-- `scroll_down(d)`: row py takes row py - d, the top d rows become false (`40_system_mode_scroll.md` R150). -/
def scrollDown (k : Nat) (d : Display) : Display :=
  Vector.ofFn fun py => if k ≤ py.val then d[py.val - k]?.getD 0 else 0

/-- `scroll_right(d)`: column px takes column px - d, which moves each row's bits d places up
(`40_system_mode_scroll.md` R150). -/
def scrollRight (k : Nat) (d : Display) : Display := Vector.ofFn fun py => d[py.val] <<< k

/-- `scroll_left(d)`: column px takes column px + d, which moves each row's bits d places down
(`40_system_mode_scroll.md` R150). -/
def scrollLeft (k : Nat) (d : Display) : Display := Vector.ofFn fun py => d[py.val] >>> k

/-- Whether a scroll moves the buffer: `ext = 1 or SCROLL_LOWRES = physical` (R146 to R148; log entry 7). -/
def State.scrolls (s : State) : Bool := s.ext || s.params.scrollLowres == .physical

/-- A scroll, or nothing where `SCROLL_LOWRES` makes it a no-op (`40_system_mode_scroll.md` R150). -/
def State.scrollBy (s : State) (move : Display → Display) : State :=
  if s.scrolls then s.setDisp (move s.disp) else s

/-- The draw geometry (`44_draw.md` R271). -/
structure Geometry where
  /-- W, the width of the space -/
  spaceWidth : Nat
  /-- H, the height of the space -/
  spaceHeight : Nat
  /-- w, the sprite's width -/
  spriteWidth : Nat
  /-- h, the sprite's height -/
  spriteHeight : Nat
  /-- the bytes of one sprite row -/
  bytesPerRow : Nat
  /-- s, the side of a pixel's block of physical cells -/
  scale : Nat
  deriving DecidableEq, Repr

/-- The geometry chosen from `ext` and n: low-res, hi-res or big sprite (`44_draw.md` R271). -/
def drawGeometry (ext : Bool) (n : Nibble) : Geometry :=
  if ext then
    if n = 0 then ⟨128, 64, 16, 16, 2, 1⟩ else ⟨128, 64, 8, n.toNat, 1, 1⟩
  else ⟨64, 32, 8, n.toNat, 1, 2⟩

/-- The sprite's bit at column c, row r: MSB first, and in the big sprite the first byte of a row on the left
(`44_draw.md` R274, R278; log entry 26). -/
def State.spriteBit (s : State) (g : Geometry) (c r : Nat) : Bool :=
  if g.bytesPerRow = 2 then
    if c < 8 then (s.memRead (s.indexed (2 * r))).getLsbD (7 - c)
    else (s.memRead (s.indexed (2 * r + 1))).getLsbD (15 - c)
  else (s.memRead (s.indexed r)).getLsbD (7 - c)

/-- The physical cells of the sprite pixel at space position (lx, ly): an s x s block (`44_draw.md` R275). -/
def blockCells (scale lx ly : Nat) : List (Nat × Nat) :=
  (List.range scale).flatMap fun dy => (List.range scale).map fun dx => (scale * lx + dx, scale * ly + dy)

/-- The cells a draw toggles, in the order of `44_draw.md` R276: rows, then columns, within the clip of R273, those whose
sprite bit is 1. -/
def spriteCells (g : Geometry) (x0 y0 : Nat) (bit : Nat → Nat → Bool) : List (Nat × Nat) :=
  (List.range (min g.spriteHeight (g.spaceHeight - y0))).flatMap fun r =>
    (List.range (min g.spriteWidth (g.spaceWidth - x0))).flatMap fun c =>
      if bit c r then blockCells g.scale (x0 + c) (y0 + r) else []

/-- One target cell: a set cell about to be cleared is a collision, then the cell is toggled (`44_draw.md` R275). -/
def drawCell (acc : Bool × Display) (cell : Nat × Nat) : Bool × Display :=
  (acc.1 || Display.pixel acc.2 cell.1 cell.2, Display.toggle acc.2 cell.1 cell.2)

/-- All target cells in turn, from `collided = 0` (`44_draw.md` R276). -/
def drawCells (d : Display) (cells : List (Nat × Nat)) : Bool × Display := cells.foldl drawCell (false, d)

/-- The cells DRW Vx, Vy, n toggles in a state: geometry R271, position R272 (both registers read before anything is
written), clip R273, bits R274 or R278. -/
def State.drawTargets (s : State) (x y n : Nibble) : List (Nat × Nat) :=
  spriteCells (drawGeometry s.ext n)
    ((s.getV x).toNat % (drawGeometry s.ext n).spaceWidth)
    ((s.getV y).toNat % (drawGeometry s.ext n).spaceHeight)
    (s.spriteBit (drawGeometry s.ext n))

end Sys2Proof.Machine
end

