-- ==== Sys2Proof/Machine/Draw.lean ====
section
/-! DEFINITION. The execute step of DRW (`44_draw.md`). -/

namespace Sys2Proof.Machine

/-- DRW Vx, Vy, n (R276): every target cell toggled, then VF written with the collision, once and last
(`90_conflicts.md` C6). -/
def execDrw (x y n : Nibble) (s : State) : Result :=
  .next ((s.setDisp (drawCells s.disp (s.drawTargets x y n)).2).setFlag
    (flagByte (drawCells s.disp (s.drawTargets x y n)).1))

end Sys2Proof.Machine
end

