-- ==== Sys2Proof/Machine/Flow.lean ====
section
/-! DEFINITION. The execute step of jump, call and the register skips (`41_jump_call_skip.md`). -/

namespace Sys2Proof.Machine

/-- JP nnn (R181). -/
def execJp (nnn : Addr) (s : State) : Result := .next (s.jump nnn)

/-- CALL nnn (R182): no push and no jump when SP ≥ CALL_DEPTH - 1; the diagnostic is `State.diagnostic` (log entry 21). -/
def execCall (nnn : Addr) (s : State) : Result :=
  if s.sp ≥ (callDepth : Int) - 1 then .next s
  else .next ((s.push s.returnAddress).jump nnn)

/-- SE Vx, nn (R183). -/
def execSeImm (x : Nibble) (nn : Byte) (s : State) : Result := .next (s.skipIf (s.getV x == nn))

/-- SNE Vx, nn (R184). -/
def execSneImm (x : Nibble) (nn : Byte) (s : State) : Result := .next (s.skipIf (s.getV x != nn))

/-- SE Vx, Vy (R185). -/
def execSeReg (x y : Nibble) (s : State) : Result := .next (s.skipIf (s.getV x == s.getV y))

/-- SNE Vx, Vy (R186). -/
def execSneReg (x y : Nibble) (s : State) : Result := .next (s.skipIf (s.getV x != s.getV y))

end Sys2Proof.Machine
end

