-- ==== Sys2Proof/Machine/GroupF.lean ====
section
/-! DEFINITION. The execute step of the group F instructions: timers, key wait, index arithmetic and memory transfer
(`46_timers_index_memory.md`). -/

namespace Sys2Proof.Machine

/-- LD Vx, DT (R330). -/
def execLdVxDt (x : Nibble) (s : State) : Result := .next (s.setV x s.dt)

/-- LD Vx, K (R332): the lowest pressed key among 0..14, or the rewind. -/
def execLdVxK (x : Nibble) (s : State) : Result :=
  match s.lowestKey with
  | none => .next s.rewind
  | some k => .next (s.setV x (BitVec.ofNat 8 k))

/-- LD DT, Vx (R333). -/
def execLdDtVx (x : Nibble) (s : State) : Result := .next (s.setDt (s.getV x))

/-- LD ST, Vx (R334). -/
def execLdStVx (x : Nibble) (s : State) : Result := .next (s.setSt (s.getV x))

/-- ADD I, Vx (R336): VF is not written. -/
def execAddI (x : Nibble) (s : State) : Result := .next (s.setI (s.indexPlus x))

/-- LD F, Vx (R337). -/
def execLdF (x : Nibble) (s : State) : Result := .next (s.setI (glyphAddress s.ext (s.getV x)))

/-- LD B, Vx (R338): three bytes at I, I + 1, I + 2. -/
def execLdB (x : Nibble) (s : State) : Result := .next (s.memWriteBytes s.i (decimalDigits (s.getV x)))

/-- LD [I], Vx (R339): V0..Vx to memory from I, then I by `LOADSTORE_I_MODE`. -/
def execLdMemVx (x : Nibble) (s : State) : Result :=
  .next ((s.memWriteBytes s.i (s.blockBytes x)).setI (s.indexAfterBlock x))

/-- LD Vx, [I] (R340): V0..Vx from memory from I, then I by `LOADSTORE_I_MODE`. -/
def execLdVxMem (x : Nibble) (s : State) : Result :=
  .next ((s.setRegs (replaceUpTo s.v x fun k => s.memRead (s.indexed k))).setI (s.indexAfterBlock x))

end Sys2Proof.Machine
end

