-- ==== Sys2Proof/Machine/IndexJumpRandom.lean ====
section
/-! DEFINITION. The execute step of LD I, JP V0 and RND (`43_index_jump_random.md`). -/

namespace Sys2Proof.Machine

/-- LD I, nnn (R250). -/
def execLdI (nnn : Addr) (s : State) : Result := .next (s.setI nnn)

/-- JP V0, nnn (R251). -/
def execJpV0 (nnn : Addr) (s : State) : Result := .next (s.jump (s.v0Target nnn))

/-- RND Vx, nn (R252): one random byte, a free value, is consumed and masked (log entry 14). -/
def execRnd (x : Nibble) (nn : Byte) (s : State) : Result :=
  .next (s.consumeRandom.setV x (s.nextRandom &&& nn))

end Sys2Proof.Machine
end

