-- ==== Sys2Proof/Machine/KeySkips.lean ====
section
/-! DEFINITION. The execute step of SKP and SKNP (`45_keys.md`). -/

namespace Sys2Proof.Machine

/-- SKP Vx (R310). -/
def execSkp (x : Nibble) (s : State) : Result :=
  match s.pressed (s.getV x) with
  | none => s.raiseKeyIndexFault
  | some down => .next (s.skipIf down)

/-- SKNP Vx (R311). -/
def execSknp (x : Nibble) (s : State) : Result :=
  match s.pressed (s.getV x) with
  | none => s.raiseKeyIndexFault
  | some down => .next (s.skipIf (!down))

end Sys2Proof.Machine
end

