-- ==== Sys2Proof/Machine/System.lean ====
section
/-! DEFINITION. The execute step of the group 0 instructions (`40_system_mode_scroll.md`). The fetch and the uniform
advance belong to the cycle (R140; log entry 27). -/

namespace Sys2Proof.Machine

/-- CLS (R141). -/
def execCls (s : State) : Result := .next (s.setDisp blankDisplay)

/-- RET (R142): a silent no-op on an empty stack; the popped slot keeps its value. A slot of 4096 or more, which no CALL
writes, is taken modulo 4096 (`10_state.md` R46). -/
def execRet (s : State) : Result :=
  if s.sp < 0 then .next s
  else .next ((s.setSp (s.sp - 1)).jump ((s.slot s.sp).setWidth 12))

/-- EXIT (R143): the rewind, so that the same word is fetched again. -/
def execExit (s : State) : Result := .next s.rewind

/-- HIGH (R144). -/
def execHigh (s : State) : Result := .next (s.setExt true)

/-- LOW (R145). -/
def execLow (s : State) : Result := .next (s.setExt false)

/-- SCD n (R146). -/
def execScd (n : Nibble) (s : State) : Result := .next (s.scrollBy (scrollDown n.toNat))

/-- SCR (R147): by 4. -/
def execScr (s : State) : Result := .next (s.scrollBy (scrollRight 4))

/-- SCL (R148): by 4. -/
def execScl (s : State) : Result := .next (s.scrollBy (scrollLeft 4))

end Sys2Proof.Machine
end

