-- ==== Sys2Proof/Machine/Cycle.lean ====
section
/-! DEFINITION. The cycle (`10_state.md` R44), the end of a frame tick (`60_exceptions.md` R380, R390) and the placing of
an instruction where the next cycle fetches. -/

namespace Sys2Proof.Machine

/-- The fetch: the byte at PC is bits 15:8 and the byte at PC + 1, modulo 4096, bits 7:0 (`10_state.md` R44,
`20_memory.md` R71). -/
def State.fetch (s : State) : Word := wordOfBytes (s.memRead s.pc) (s.memRead (s.pc + 1))

/-- What the word at PC decodes to, under the state's decode parameters. -/
def State.decoded (s : State) : Decoded := decode s.params s.fetch

/-- The uniform advance after an execute step that answered a state (`10_state.md` R45). -/
def advanceResult (r : Result) : Result :=
  match r with
  | .next t => .next t.uniformAdvance
  | .fault f => .fault f
  | .refused f => .refused f

/-- One cycle: fetch, decode, execute, advance (`10_state.md` R44). An UNKNOWN word is a no-op (`30_encoding.md` R120). -/
def cycle (s : State) : Result :=
  match s.decoded with
  | .instr i => advanceResult (exec i s)
  | .rejected _ => .next s.uniformAdvance

/-- The end of the frame tick in progress: the timer step, then the keys the host leaves, and the host's next call begins
(`60_exceptions.md` R380, R390, R392; log entry 15). -/
def State.endTick (s : State) (t : HostTick) (rest : List HostTick) : State :=
  { s.timerStep with key := t.nextKeys, ticks := rest }

/-- One cycle fewer left in the frame tick in progress. -/
def State.spendCycle (s : State) : State :=
  { s with ticks := match s.ticks with
    | [] => []
    | t :: rest => { t with cycles := t.cycles - 1 } :: rest }

/-- Whether the frame tick in progress has run all its cycles, so that its timer step is next (`60_exceptions.md` R390). -/
def State.tickDone (s : State) : Bool :=
  match s.ticks with
  | [] => false
  | t :: _ => t.cycles == 0

/-- One step of the core under its host: the timer step where the tick in progress has run all its cycles, else a cycle
(`60_exceptions.md` R374, R390). With no tick listed the call in progress runs on (log entry 15). -/
def frameStep (s : State) : Result :=
  match s.ticks with
  | [] => cycle s
  | t :: rest => if t.cycles = 0 then .next (s.endTick t rest) else cycle s.spendCycle

/-- A tick that has a cycle to run. -/
def atLeastOneCycle : List HostTick → List HostTick
  | [] => []
  | t :: rest => (if t.cycles = 0 then { t with cycles := 1 } else t) :: rest

/-- The instruction whose bits are the low `nbits` of `w` placed at PC, big-endian, with a cycle to run it. -/
def State.placeWord (s : State) (nbits w : Nat) : State :=
  { s.memWriteBytes s.pc (bytesOfWord (BitVec.ofNat 16 (w % 2 ^ nbits))) with ticks := atLeastOneCycle s.ticks }

end Sys2Proof.Machine
end

