-- ==== Sys2Proof/Machine/Ports.lean ====
section
/-! DEFINITION. The ports by which the host reaches the core (`60_exceptions.md` R390 to R397, `00_scope.md` R5). -/

namespace Sys2Proof.Machine

/-- `rom_load(bytes)`: at most 3584 bytes from 0x200, the rest dropped (R391). -/
def State.romLoad (s : State) (bytes : List Byte) : State := s.memWriteBytes romBase (bytes.take romMax)

/-- n cycles one after another, stopping early only on a model fault (R390, R374). -/
def runCycles : Nat → State → Result
  | 0, s => .next s
  | n + 1, s =>
    match cycle s with
    | .next t => runCycles n t
    | .fault f => .fault f
    | .refused f => .refused f

/-- `advance(n)`: n cycles, then the timer step (R390). -/
def advance (n : Nat) (s : State) : Result :=
  match runCycles n s with
  | .next t => .next t.timerStep
  | .fault f => .fault f
  | .refused f => .refused f

/-- The host sets the key array, between `advance` calls (R392). -/
def State.setKeys (s : State) (k : Keys) : State := { s with key := k }

/-- The pixel output port: true means lit (R393). -/
def State.pixelOut (s : State) (px py : Nat) : Bool := Display.pixel s.disp px py

/-- The audio port, `sound = (ST > 0)` (R394). -/
def State.sound (s : State) : Bool := decide (s.st.toNat > 0)

/-- What the diagnostic dump reads (R397). Its text format is out of scope. -/
structure Dump where
  v : Vector Byte 16
  stack : Vector Word 16
  i : Addr
  pc : Addr
  sp : Int
  dt : Byte
  st : Byte
  deriving DecidableEq, Repr

/-- The diagnostic dump, a pure read (R397). -/
def State.dump (s : State) : Dump := ⟨s.v, s.stack, s.i, s.pc, s.sp, s.dt, s.st⟩

/-- The two log messages (R396). Their texts are not given. -/
inductive Diagnostic where
  | unknownOpcode (op : Word)
  | stackOverflow
  deriving DecidableEq, Repr

/-- The message the cycle that starts in a state emits, if it emits one (R396; log entry 21). RET underflow emits none. -/
def State.diagnostic (s : State) : Option Diagnostic :=
  match s.decoded with
  | .rejected (.unknown op) => some (.unknownOpcode op)
  | .rejected .truncated => none
  | .instr (.call _) => if s.sp ≥ (callDepth : Int) - 1 then some .stackOverflow else none
  | .instr _ => none

end Sys2Proof.Machine
end

