-- ==== Sys2Proof/Machine/Step.lean ====
section
/-! DEFINITION. The step of the machine, and the state in which the next step runs a given word. -/

namespace Sys2Proof.Machine

/-- One step: a cycle, or the timer step that ends the frame tick in progress (log entry 15). -/
def step (s : State) : Host.Outcome State Fault Refusal := frameStep s

/-- The state with the instruction of an opcode-table row where the next step fetches (log entry 17). -/
def State.withFetchWord (s : State) (nbits w : Nat) : State := s.placeWord nbits w

end Sys2Proof.Machine
end

