-- ==== Sys2Proof/Safety.lean ====
section
/-! DEFINITION. The terms claims are made in: the machine invariant, the end of a run, the next-PC table, and which state
each instruction may write, each read off the rule that says so. -/

namespace Sys2Proof

/-- The word decodes to the instruction under every value of the two decode parameters. -/
def DecodesTo (op : Word) (i : Instr) : Prop := ∀ p, decode p op = .instr i

/-- The group 0 word with low nibbles y, n decodes to the instruction, whatever bits 11:8 are where `GROUP0_MATCH` has them
ignored, and with bits 11:8 zero where it has not (`30_encoding.md` R110). -/
def Group0DecodesTo (y n : Nibble) (i : Instr) : Prop :=
  ∀ (p : Config.Params) (q : Nibble), p.group0Match = .lowByte ∨ q = 0 → decode p (wordOfNibbles 0x0 q y n) = .instr i

end Sys2Proof

namespace Sys2Proof.Machine

/-! ## The invariant and the end of a run -/

/-- SP in -1..15, every stack slot a 12-bit address (`10_state.md` R35, R38), and memory in its canonical form. The other
ranges the spec gives (PC, I, the registers, the timers) are the fields' types. -/
def Inv (s : State) : Prop :=
  Memory.wf s.params s.mem = true ∧ -1 ≤ s.sp ∧ s.sp ≤ 15 ∧ ∀ k : Fin 16, s.stack[k.val].toNat < 4096

/-- A run is halted where the word at PC decodes to EXIT (`60_exceptions.md` R401). -/
def Halted (s : State) : Prop := s.decoded = .instr .exit

/-- SKP or SKNP at a key index above 15 under the `fault` policy, the one place a model fault is raised
(`45_keys.md` R312, `60_exceptions.md` R372). -/
def FaultsOnKeyIndex (s : State) : Prop :=
  s.params.keyIndexPolicy = .fault ∧
    ∃ x, (s.decoded = .instr (.skp x) ∨ s.decoded = .instr (.sknp x)) ∧ (s.getV x).toNat > 15

/-! ## The next PC -/

/-- Whether the skip of an instruction is taken in a state: SE, SNE, SKP and SKNP in every form (`10_state.md` R47). -/
def skipTaken (i : Instr) (s : State) : Bool :=
  match i with
  | .seImm x nn => decide (s.getV x = nn)
  | .sneImm x nn => decide (s.getV x ≠ nn)
  | .seReg x y => decide (s.getV x = s.getV y)
  | .sneReg x y => decide (s.getV x ≠ s.getV y)
  | .skp x => decide (s.pressed (s.getV x) = some true)
  | .sknp x => decide (s.pressed (s.getV x) = some false)
  | .cls | .ret | .exit | .high | .low | .scd _ | .scr | .scl | .jp _ | .call _ | .ldImm _ _ | .addImm _ _
  | .ldReg _ _ | .orReg _ _ | .andReg _ _ | .xorReg _ _ | .addReg _ _ | .sub _ _ | .shr _ _ | .subn _ _ | .shl _ _
  | .ldI _ | .jpV0 _ | .rnd _ _ | .drw _ _ _ | .ldVxDt _ | .ldVxK _ | .ldDtVx _ | .ldStVx _ | .addI _ | .ldF _
  | .ldB _ | .ldMemVx _ | .ldVxMem _ => false

/-- The PC after a cycle that runs an instruction, by the table of `10_state.md` R49. -/
def nextPcOf (i : Instr) (s : State) : Addr :=
  match i with
  | .jp nnn => nnn
  | .call nnn => if s.sp < 15 then nnn else s.pc + 2
  | .ret => if 0 ≤ s.sp then (s.slot s.sp).setWidth 12 else s.pc + 2
  | .jpV0 nnn => BitVec.ofNat 12 ((nnn.toNat + (s.getV 0).toNat) % 4096)
  | .exit => s.pc
  | .ldVxK _ => if ∃ k : Fin 15, s.key[k.val] = true then s.pc + 2 else s.pc
  | .seImm _ _ | .sneImm _ _ | .seReg _ _ | .sneReg _ _ | .skp _ | .sknp _ =>
    if skipTaken i s then s.pc + 4 else s.pc + 2
  | .cls | .high | .low | .scd _ | .scr | .scl | .ldImm _ _ | .addImm _ _ | .ldReg _ _ | .orReg _ _ | .andReg _ _
  | .xorReg _ _ | .addReg _ _ | .sub _ _ | .shr _ _ | .subn _ _ | .shl _ _ | .ldI _ | .rnd _ _ | .drw _ _ _ | .ldVxDt _
  | .ldDtVx _ | .ldStVx _ | .addI _ | .ldF _ | .ldB _ | .ldMemVx _ | .ldVxMem _ => s.pc + 2

/-- The PC after a cycle, by the table of `10_state.md` R49; an UNKNOWN word is in its first row. -/
def nextPc (s : State) : Addr :=
  match s.decoded with
  | .instr i => nextPcOf i s
  | .rejected _ => s.pc + 2

/-! ## What each instruction may write -/

/-- The V registers an instruction may write: its destination, VF where it writes a flag, V0..Vx for a block load
(`10_state.md` R53 and the instruction rules). -/
def mayWriteV (i : Instr) (k : Nibble) : Bool :=
  match i with
  | .ldImm x _ | .addImm x _ | .rnd x _ | .ldVxDt x | .ldVxK x => k == x
  | .ldReg x _ | .orReg x _ | .andReg x _ | .xorReg x _ => k == x
  | .addReg x _ | .sub x _ | .shr x _ | .subn x _ | .shl x _ => k == x || k == 0xF
  | .drw _ _ _ => k == 0xF
  | .ldVxMem x => decide (k.toNat ≤ x.toNat)
  | .cls | .ret | .exit | .high | .low | .scd _ | .scr | .scl | .jp _ | .call _ | .seImm _ _ | .sneImm _ _ | .seReg _ _
  | .sneReg _ _ | .ldI _ | .jpV0 _ | .skp _ | .sknp _ | .ldDtVx _ | .ldStVx _ | .addI _ | .ldF _ | .ldB _
  | .ldMemVx _ => false

/-- The writers of I (`10_state.md` R33): the block transfers only where `LOADSTORE_I_MODE` is not `unchanged`. -/
def mayWriteI (p : Config.Params) (i : Instr) : Bool :=
  match i with
  | .ldI _ | .addI _ | .ldF _ => true
  | .ldMemVx _ | .ldVxMem _ => p.loadStoreIMode != .unchanged
  | .cls | .ret | .exit | .high | .low | .scd _ | .scr | .scl | .jp _ | .call _ | .seImm _ _ | .sneImm _ _ | .seReg _ _
  | .sneReg _ _ | .ldImm _ _ | .addImm _ _ | .ldReg _ _ | .orReg _ _ | .andReg _ _ | .xorReg _ _ | .addReg _ _
  | .sub _ _ | .shr _ _ | .subn _ _ | .shl _ _ | .jpV0 _ | .rnd _ _ | .drw _ _ _ | .skp _ | .sknp _ | .ldVxDt _
  | .ldVxK _ | .ldDtVx _ | .ldStVx _ | .ldB _ => false

/-- The bytes an instruction stores from address I on (`20_memory.md` R72): 3 for LD B, x + 1 for LD [I], none else. -/
def storedBytes (i : Instr) : Nat :=
  match i with
  | .ldB _ => 3
  | .ldMemVx x => x.toNat + 1
  | .cls | .ret | .exit | .high | .low | .scd _ | .scr | .scl | .jp _ | .call _ | .seImm _ _ | .sneImm _ _ | .seReg _ _
  | .sneReg _ _ | .ldImm _ _ | .addImm _ _ | .ldReg _ _ | .orReg _ _ | .andReg _ _ | .xorReg _ _ | .addReg _ _
  | .sub _ _ | .shr _ _ | .subn _ _ | .shl _ _ | .ldI _ | .jpV0 _ | .rnd _ _ | .drw _ _ _ | .skp _ | .sknp _
  | .ldVxDt _ | .ldVxK _ | .ldDtVx _ | .ldStVx _ | .addI _ | .ldF _ | .ldVxMem _ => 0

/-- The instructions that may move PC during execute (`10_state.md` R46 to R48). -/
def mayMovePc (i : Instr) : Bool :=
  match i with
  | .jp _ | .call _ | .ret | .jpV0 _ | .exit | .ldVxK _ => true
  | .seImm _ _ | .sneImm _ _ | .seReg _ _ | .sneReg _ _ | .skp _ | .sknp _ => true
  | .cls | .high | .low | .scd _ | .scr | .scl | .ldImm _ _ | .addImm _ _ | .ldReg _ _ | .orReg _ _ | .andReg _ _
  | .xorReg _ _ | .addReg _ _ | .sub _ _ | .shr _ _ | .subn _ _ | .shl _ _ | .ldI _ | .rnd _ _ | .drw _ _ _ | .ldVxDt _
  | .ldDtVx _ | .ldStVx _ | .addI _ | .ldF _ | .ldB _ | .ldMemVx _ | .ldVxMem _ => false

/-- The writers of the display buffer: CLS, the draw and the scrolls (`10_state.md` R40). -/
def mayWriteDisp (i : Instr) : Bool :=
  match i with
  | .cls | .scd _ | .scr | .scl | .drw _ _ _ => true
  | .ret | .exit | .high | .low | .jp _ | .call _ | .seImm _ _ | .sneImm _ _ | .seReg _ _ | .sneReg _ _ | .ldImm _ _
  | .addImm _ _ | .ldReg _ _ | .orReg _ _ | .andReg _ _ | .xorReg _ _ | .addReg _ _ | .sub _ _ | .shr _ _ | .subn _ _
  | .shl _ _ | .ldI _ | .jpV0 _ | .rnd _ _ | .skp _ | .sknp _ | .ldVxDt _ | .ldVxK _ | .ldDtVx _ | .ldStVx _ | .addI _
  | .ldF _ | .ldB _ | .ldMemVx _ | .ldVxMem _ => false

/-! ## Nested calls -/

/-- CALLs executed one after another, each with its uniform advance, one per target (`41_jump_call_skip.md` R182). -/
def nestedCalls : List Addr → State → Result
  | [], s => .next s
  | nnn :: rest, s =>
    match advanceResult (exec (.call nnn) s) with
    | .next t => nestedCalls rest t
    | .fault f => .fault f
    | .refused f => .refused f

/-! ## The sprite, as the rules of `44_draw.md` describe it, cell by cell -/

/-- Whether the sprite of DRW Vx, Vy, n puts a set bit on physical cell (px, py), inside the clip: geometry R271, position
R272, clip R273, bits R274 and R278. Written from those rules on plain numbers, apart from the loops of R276. -/
def spriteCovers (s : State) (x y n : Nibble) (px py : Nat) : Bool :=
  if s.ext then
    if n = 0 then covers 128 64 16 16 2 1 else covers 128 64 8 n.toNat 1 1
  else covers 64 32 8 n.toNat 1 2
where
  /-- The cell's place in a space W x H at scale k, inside a w x h sprite, and the sprite's bit there. -/
  covers (W H w h bytes k : Nat) : Bool :=
    let lx := px / k
    let ly := py / k
    let x0 := (s.getV x).toNat % W
    let y0 := (s.getV y).toNat % H
    decide (x0 ≤ lx ∧ lx < x0 + w ∧ lx < W ∧ y0 ≤ ly ∧ ly < y0 + h ∧ ly < H) &&
      (Memory.read s.params s.mem ((s.i.toNat + bytes * (ly - y0) + (lx - x0) / 8) % 4096)).getLsbD (7 - (lx - x0) % 8)

end Sys2Proof.Machine
end

