-- ==== Sys2Proof/Certificates/Slice0/Obligations.lean ====
section
/-! DEFINITION. The statements for the provers. Each docstring names what of the spec it formalises. A statement holds for
every value of the OPEN parameters (`State.params`) and of the free random bytes. Opcode numbers are the spec's decision D1
(log entry 9); a docstring marks them "D1". -/

open Sys2Proof Sys2Proof.Machine

/-! ## Encoding -/

/-- Decoding the word of an instruction, or its two bytes in front of others, gives the instruction back, at every
operand and under every decode parameter (`30_encoding.md` R110, R112; D1). -/
def Obligations.DecodeOfEncodeIsTheInstruction : Prop :=
  ∀ (p : Config.Params) (i : Instr) (rest : List Byte),
    decode p (encode i) = .instr i ∧ decodeBytes p (encodeBytes i ++ rest) = (.instr i, rest)

/-- The decoder reads row k's instruction from a word exactly when the word matches row k of the opcode map (R110, R112;
D1). -/
def Obligations.DecodeFollowsTheOpcodeMap : Prop :=
  ∀ (p : Config.Params) (op : Word) (k : Nat),
    (∃ i, decode p op = .instr i ∧ i.rowNumber = k) ↔ ∃ r ∈ opcodeMap, r.number = k ∧ rowMatches p op r = true

/-- No word matches two rows of the opcode map, under any decode parameter (`30_encoding.md` section 3; D1). -/
def Obligations.OpcodeMapRowsNeverOverlap : Prop :=
  ∀ (p : Config.Params) (op : Word), ∀ r ∈ opcodeMap, ∀ r' ∈ opcodeMap,
    rowMatches p op r = true → rowMatches p op r' = true → r = r'

/-- Encoding what was decoded gives the word back, but for the nibble the decoder ignores in group 0 and in groups 5 and
9; and the whole word where the parameters ignore none (R101, R110; D1). -/
def Obligations.EncodeOfDecodeGivesTheWordBack : Prop :=
  ∀ (p : Config.Params) (op : Word) (i : Instr), decode p op = .instr i →
    (encode i = if fieldT op = 0x0 then wordOfNibbles 0x0 0x0 (fieldY op) (fieldN op)
      else if fieldT op = 0x5 ∨ fieldT op = 0x9 then wordOfNibbles (fieldT op) (fieldX op) (fieldY op) 0x0
      else op) ∧
    (p.group0Match = .fullWord → p.strict59 = true → encode i = op)

/-- What a word decodes to depends on the word and the two decode parameters alone (`30_encoding.md` R111). -/
def Obligations.DecodeReadsOnlyTheDecodeParameters : Prop :=
  ∀ (p q : Config.Params) (op : Word), p.group0Match = q.group0Match → p.strict59 = q.strict59 →
    decode p op = decode q op

/-- The UNKNOWN words, under every decode parameter, and what a cycle does at one: nothing but the uniform advance
(`30_encoding.md` section 4; D1). -/
def Obligations.UnknownWordsAreTheListedNoOps : Prop :=
  (∀ (p : Config.Params) (op : Word), decode p op = .rejected (.unknown op) ↔
    (fieldT op = 0x0 ∧ ((p.group0Match = .fullWord ∧ fieldX op ≠ 0x0) ∨
      (fieldNn op ∉ [0xE0, 0xEE, 0xFB, 0xFC, 0xFD, 0xFE, 0xFF] ∧ fieldY op ≠ 0xC))) ∨
    ((fieldT op = 0x5 ∨ fieldT op = 0x9) ∧ p.strict59 = true ∧ fieldN op ≠ 0x0) ∨
    (fieldT op = 0x8 ∧ fieldN op ∈ [0x8, 0x9, 0xA, 0xB, 0xC, 0xD, 0xF]) ∨
    (fieldT op = 0xE ∧ fieldNn op ∉ [0x9E, 0xA1]) ∨
    (fieldT op = 0xF ∧ fieldNn op ∉ [0x07, 0x0A, 0x15, 0x18, 0x1E, 0x29, 0x33, 0x55, 0x65])) ∧
  (∀ (s : State) (r : Rejection), s.decoded = .rejected r → cycle s = .next { s with pc := s.pc + 2 })

/-- Ten words of the decode vectors (`95_test_vectors.md` section 2.1: DE1, DE2, DE3, DE5, DE6, DE7, DE8, DE10, DE11,
DE13) and six of the vectors J4, A1, X1, X2, K1 and T9 (sections 2.3, 2.4, 2.5, 2.7, 2.8), at the default parameters.
The numbers are decision D1 (log entry 9); 01E0 as CLS rests on the default of `GROUP0_MATCH` (decision D8, log entry
5) and 5121 as SE V1, V2 on that of `STRICT_5_9` (decision D7, log entry 4). -/
def Obligations.VectorWordsDecodeAsListed : Prop :=
  decode defaultParams 0x00E0 = .instr .cls ∧ decode defaultParams 0x01E0 = .instr .cls ∧
  decode defaultParams 0x0000 = .rejected (.unknown 0x0000) ∧ decode defaultParams 0x00C0 = .instr (.scd 0) ∧
  decode defaultParams 0x00D3 = .rejected (.unknown 0x00D3) ∧ decode defaultParams 0x5121 = .instr (.seReg 1 2) ∧
  decode defaultParams 0x8128 = .rejected (.unknown 0x8128) ∧ decode defaultParams 0xE19F = .rejected (.unknown 0xE19F) ∧
  decode defaultParams 0xF130 = .rejected (.unknown 0xF130) ∧ decode defaultParams 0xD010 = .instr (.drw 0 1 0) ∧
  decode defaultParams 0x2300 = .instr (.call 0x300) ∧ decode defaultParams 0x8124 = .instr (.addReg 1 2) ∧
  decode defaultParams 0xA123 = .instr (.ldI 0x123) ∧ decode defaultParams 0xC10F = .instr (.rnd 1 0x0F) ∧
  decode defaultParams 0xE19E = .instr (.skp 1) ∧ decode defaultParams 0xF255 = .instr (.ldMemVx 2)

/-! ## The cycle and the step -/

/-- Where the two bytes at PC decode to an instruction, the step is its execution and the uniform advance, unless the
frame tick in progress has run all its cycles; with a tick listed, one of its cycles is spent (R44; log entries 15 and
27). -/
def Obligations.StepRunsTheDecodedInstruction : Prop :=
  (∀ (s : State) (i : Instr), decodeBytes s.params [s.memRead s.pc, s.memRead (s.pc + 1)] = (.instr i, []) →
    (s.ticks = [] → step s = advanceResult (exec i s)) ∧
    (∀ k rest, s.ticks = k :: rest → k.cycles ≠ 0 →
      step s = advanceResult (exec i { s with ticks := { k with cycles := k.cycles - 1 } :: rest }))) ∧
  (∀ t : State, advanceResult (.next t) = .next { t with pc := t.pc + 2 }) ∧
  (∀ f : Fault, advanceResult (.fault f) = .fault f)

/-- The fetch is big-endian: the byte at PC is bits 15:8, the byte at (PC + 1) mod 4096 bits 7:0 (`20_memory.md` R71).
-/
def Obligations.FetchIsBigEndian : Prop :=
  ∀ s : State, s.fetch.toNat = (Memory.read s.params s.mem s.pc.toNat).toNat * 256
    + (Memory.read s.params s.mem ((s.pc.toNat + 1) % 4096)).toNat

/-- The PC after a cycle is the one the next-PC table gives, for every instruction and for UNKNOWN words
(`10_state.md` section 6, with the skip conditions of `41_jump_call_skip.md` and `45_keys.md`). Choices the table
rests on: the wrap of JP V0 (decision D17, log entry 25), the SP encoding and the CALL depth (decision D3, log entry
11), that RET lands on the popped value (decision D4, log entry 12), and SKP and SKNP above key 15, where the policy
decides the skip and under `fault` the cycle answers no state (decision D9, log entry 6). -/
def Obligations.CyclePcFollowsTheNextPcTable : Prop :=
  ∀ s t : State, cycle s = .next t → t.pc = nextPc s

/-- A cycle always answers a next state, but for SKP and SKNP at a key index above 15 under the `fault` policy, which
raise the model fault with the PC of the instruction (`60_exceptions.md` sections 1 and 4, decision D9). -/
def Obligations.CycleFaultsOnlyOnAKeyIndexAboveFifteen : Prop :=
  ∀ s : State, (FaultsOnKeyIndex s → cycle s = .fault (.keyIndexOutOfRange s.pc)) ∧
    (¬FaultsOnKeyIndex s → ∃ t, cycle s = .next t)

/-- No cycle changes the keys, the host's tick list or the parameters, and no run of cycles does: the key array is
constant during one `advance` call (`10_state.md` section 5, decision D15). -/
def Obligations.CyclesLeaveWhatTheHostOwns : Prop :=
  ∀ (n : Nat) (s t : State), runCycles n s = .next t → t.key = s.key ∧ t.ticks = s.ticks ∧ t.params = s.params

/-- The timer step runs once at the end of every `advance` call, after all its cycles (none included), and at no other
time: a cycle changes DT or ST only by LD DT, Vx or LD ST, Vx (`60_exceptions.md` R380). -/
def Obligations.TimersStepOnceAtTheEndOfATick : Prop :=
  (∀ (n : Nat) (s t : State), runCycles n s = .next t → advance n s = .next { t with
    dt := if t.dt.toNat > 0 then BitVec.ofNat 8 (t.dt.toNat - 1) else t.dt
    st := if t.st.toNat > 0 then BitVec.ofNat 8 (t.st.toNat - 1) else t.st }) ∧
  (∀ s t : State, cycle s = .next t →
    ((∀ x, s.decoded ≠ .instr (.ldDtVx x)) → t.dt = s.dt) ∧ ((∀ x, s.decoded ≠ .instr (.ldStVx x)) → t.st = s.st))

/-- The step at which a listed tick has no cycle left is the timer step, after which the keys are the ones the host
leaves and its next call begins; nothing else changes (`60_exceptions.md` sections 3 and 4; the tick list is the
model's, log entry 15). -/
def Obligations.TickEndStepsTimersAndSetsKeys : Prop :=
  ∀ (s : State) (k : HostTick) (rest : List HostTick), s.ticks = k :: rest → k.cycles = 0 →
    ∃ t, step s = .next t ∧ t.dt.toNat = s.dt.toNat - 1 ∧ t.st.toNat = s.st.toNat - 1 ∧
      t = { s with dt := t.dt, st := t.st, key := k.nextKeys, ticks := rest }

/-- REFINEMENT. The steps of a listed tick of n cycles are the port `advance(n)`, then the keys the host leaves
(`60_exceptions.md` section 4; the tick list is the model's, log entry 15). -/
def Obligations.StepsOfATickAreAdvance : Prop :=
  ∀ (n : Nat) (s : State) (k : Keys) (rest : List HostTick),
    Host.Core.run core (n + 1) { s with ticks := ⟨n, k⟩ :: rest } = match advance n s with
      | .next t => .next { t with key := k, ticks := rest }
      | .fault f => .fault f
      | .refused f => .refused f

/-! ## Invariant, reset and memory -/

/-- INVARIANT. Every step from a state with SP in -1..15, 12-bit stack slots and canonical memory answers such a state
(`10_state.md` sections 3 and 4; the range of SP is decision D3, log entry 11; the canonical form is the model's, log
entry 18). -/
def Obligations.StepKeepsTheMachineInvariant : Prop :=
  ∀ s t : State, Inv s → step s = .next t → Inv t

/-- Construction meets the invariant, at every value of the parameters, and so does a ROM load after it (the range of
SP is decision D3, log entry 11; the canonical form is the model's, log entry 18). -/
def Obligations.ConstructionMeetsTheMachineInvariant : Prop :=
  ∀ (p : Config.Params) (rom : List Byte), Inv (State.construct p) ∧ Inv ((State.construct p).romLoad rom)

/-- Construction leaves every element at its value of the reset table: fonts and zeros in memory, PC = 0x200 (decision
D2), SP = -1 (decision D3), all else zero; and reset is construction at the defaults (`10_state.md` section 8). -/
def Obligations.ConstructionLeavesTheResetValues : Prop :=
  (∀ (p : Config.Params) (s : State), s = State.construct p →
    (∀ a : Addr, s.memRead a = if h : a.toNat < 80 then p.smallFont[a.toNat]
      else if h : a.toNat < 180 then p.largeFont[a.toNat - 80] else 0) ∧
    (∀ k, s.getV k = 0) ∧ s.i = 0 ∧ s.pc = 0x200 ∧ s.sp = -1 ∧ (∀ k : Fin 16, s.stack[k.val] = 0) ∧
    s.dt = 0 ∧ s.st = 0 ∧ (∀ px py, Display.pixel s.disp px py = false) ∧ s.ext = false ∧
    (∀ k : Fin 16, s.key[k.val] = false)) ∧
  State.reset = State.construct defaultParams

/-- In canonical memory, after any writes one after another, a read gives the most recent byte written to its address,
or what it gave before where none was: a write changes only its byte and a read changes nothing (`20_memory.md` R75). -/
def Obligations.ReadsGiveTheMostRecentWrite : Prop :=
  ∀ (writes : List (Addr × Byte)) (s : State) (c : Addr), Memory.wf s.params s.mem = true →
    (writes.foldl (fun s w => s.memWrite w.1 w.2) s).memRead c =
      match writes.reverse.find? fun w => w.1 == c with
      | some w => w.2
      | none => s.memRead c

/-- Canonical memories that read the same at every address are the same data (log entry 18). -/
def Obligations.CanonicalMemoriesWithTheSameBytesAreEqual : Prop :=
  ∀ (p : Config.Params) (m m' : Memory), Memory.wf p m = true → Memory.wf p m' = true →
    (∀ a < 4096, Memory.read p m a = Memory.read p m' a) → m = m'

/-- A ROM load puts byte k at 0x200 + k for k < min(len, 3584) and changes nothing else (`60_exceptions.md` R391). -/
def Obligations.RomLoadPlacesTheImage : Prop :=
  ∀ (s : State) (bytes : List Byte), Memory.wf s.params s.mem = true →
    (∀ a : Addr, (s.romLoad bytes).memRead a =
      if 512 ≤ a.toNat ∧ a.toNat - 512 < bytes.length then bytes[a.toNat - 512]?.getD 0 else s.memRead a) ∧
    s.romLoad bytes = { s with mem := (s.romLoad bytes).mem }

/-- A word stored at two consecutive addresses is what the next fetch there reads: self-modifying code is well defined
(`20_memory.md` section 5). -/
def Obligations.StoredWordIsFetched : Prop :=
  ∀ (s : State) (hi lo : Byte), Memory.wf s.params s.mem = true →
    ((s.memWrite s.pc hi).memWrite (s.pc + 1) lo).fetch.toNat = hi.toNat * 256 + lo.toNat

/-- The word placed for the host's probe is the one the next cycle fetches, and the next step is that cycle (log entry
17). -/
def Obligations.PlacedWordRunsNext : Prop :=
  ∀ (s : State) (w : Nat), Memory.wf s.params s.mem = true →
    (s.withFetchWord 16 w).fetch = BitVec.ofNat 16 w ∧ (s.withFetchWord 16 w).tickDone = false ∧
    step (s.withFetchWord 16 w) = cycle (s.withFetchWord 16 w).spendCycle

/-! ## System, mode and scroll -/

/-- CLS (`40_system_mode_scroll.md` R141): its words (D1), and all 8192 cells false whatever `ext` is, nothing else
changed. -/
def Obligations.ClsClearsEveryCell : Prop :=
  Group0DecodesTo 0xE 0x0 .cls ∧
  ∀ s : State, ∃ t, exec .cls s = .next t ∧ (∀ px < 128, ∀ py < 64, Display.pixel t.disp px py = false) ∧
    t = { s with disp := t.disp }

/-- RET (R142, decisions D3 and D4): its words (D1), a no-op on an empty stack, else SP down by one and PC two below
the popped address, modulo 4096 (decision D16, log entry 28), the slot kept. -/
def Obligations.RetPopsOrDoesNothing : Prop :=
  Group0DecodesTo 0xE 0xE .ret ∧
  ∀ s : State, (s.sp < 0 → exec .ret s = .next s) ∧
    (∀ k : Fin 16, s.sp = k.val → exec .ret s = .next { s with
      sp := s.sp - 1
      pc := BitVec.ofNat 12 ((s.stack[k.val].toNat + 4094) % 4096) })

/-- EXIT (`40_system_mode_scroll.md` R143): its words (D1), the rewind, and the halt: from a state at an EXIT word any
number of cycles changes nothing, and a frame tick changes the timers alone and leaves the halt. -/
def Obligations.ExitHaltsByRepeatingItself : Prop :=
  Group0DecodesTo 0xF 0xD .exit ∧
  (∀ s : State, exec .exit s = .next { s with pc := BitVec.ofNat 12 ((s.pc.toNat + 4094) % 4096) }) ∧
  (∀ (s : State) (n : Nat), Halted s → runCycles n s = .next s ∧
    ∃ t, advance n s = .next t ∧ Halted t ∧ t.dt.toNat = s.dt.toNat - 1 ∧ t.st.toNat = s.st.toNat - 1 ∧
      t = { s with dt := t.dt, st := t.st })

/-- HIGH and LOW (`40_system_mode_scroll.md` R144, R145): their words (D1), `ext` set or cleared, the display and all
else unchanged. -/
def Obligations.HighAndLowWriteExtAlone : Prop :=
  Group0DecodesTo 0xF 0xF .high ∧ Group0DecodesTo 0xF 0xE .low ∧
  ∀ s : State, exec .high s = .next { s with ext := true } ∧ exec .low s = .next { s with ext := false }

/-- SCD, SCR and SCL cell by cell (R146 to R148, R150; decision D10, and the pairing of counts with directions is the
spec's general knowledge, log entry 23): their words (D1), every cell from the buffer before, vacated cells false, no
wraparound; a no-op in low-res under `SCROLL_LOWRES` = `noop`. -/
def Obligations.ScrollsShiftEveryCell : Prop :=
  (∀ n, Group0DecodesTo 0xC n (.scd n)) ∧ Group0DecodesTo 0xF 0xB .scr ∧ Group0DecodesTo 0xF 0xC .scl ∧
  ∀ (s : State) (moves : Prop), (moves ↔ s.ext = true ∨ s.params.scrollLowres = .physical) →
    (∀ n : Nibble, ∃ t, exec (.scd n) s = .next t ∧ t = { s with disp := t.disp } ∧ (¬moves → t = s) ∧
      (moves → ∀ px < 128, ∀ py < 64, Display.pixel t.disp px py =
        if n.toNat ≤ py then Display.pixel s.disp px (py - n.toNat) else false)) ∧
    (∃ t, exec .scr s = .next t ∧ t = { s with disp := t.disp } ∧ (¬moves → t = s) ∧
      (moves → ∀ px < 128, ∀ py < 64, Display.pixel t.disp px py =
        if 4 ≤ px then Display.pixel s.disp (px - 4) py else false)) ∧
    (∃ t, exec .scl s = .next t ∧ t = { s with disp := t.disp } ∧ (¬moves → t = s) ∧
      (moves → ∀ px < 128, ∀ py < 64, Display.pixel t.disp px py =
        if px + 4 < 128 then Display.pixel s.disp (px + 4) py else false))

/-! ## Jump, call and skip -/

/-- JP nnn (`41_jump_call_skip.md` R181): its word (D1), PC two below the target after execute, modulo 4096 (decision
D16, log entry 28), and on the target after the cycle. -/
def Obligations.JpLandsOnItsTarget : Prop :=
  ∀ nnn : Addr, DecodesTo (wordOfAddr 0x1 nnn) (.jp nnn) ∧
    ∀ s : State, exec (.jp nnn) s = .next { s with pc := BitVec.ofNat 12 ((nnn.toNat + 4094) % 4096) } ∧
      (s.decoded = .instr (.jp nnn) → cycle s = .next { s with pc := nnn })

/-- CALL nnn (R182, decisions D3 and D4): its words (D1); with SP at 15 or above nothing; with SP in -1..14 the return
address (PC + 2) mod 4096 goes to the slot above, SP moves up, PC is two below the target, modulo 4096 (decision D16,
log entry 28), all other slots are kept. -/
def Obligations.CallPushesTheReturnAddress : Prop :=
  ∀ nnn : Addr, DecodesTo (wordOfAddr 0x2 nnn) (.call nnn) ∧
    ∀ s : State, (15 ≤ s.sp → exec (.call nnn) s = .next s) ∧
      (∀ k : Fin 16, s.sp = (k.val : Int) - 1 → ∃ t, exec (.call nnn) s = .next t ∧ t.sp = k.val ∧
        (∀ j : Fin 16, t.stack[j.val].toNat = if j = k then (s.pc.toNat + 2) % 4096 else s.stack[j.val].toNat) ∧
        t.pc.toNat = (nnn.toNat + 4094) % 4096 ∧ t = { s with sp := t.sp, stack := t.stack, pc := t.pc })

/-- A CALL that pushes and then a RET go back to the word after the CALL, with SP as before (`95_test_vectors.md`
section 1, W4; decisions D3 and D4, log entries 11 and 12). -/
def Obligations.RetAfterCallReturns : Prop :=
  ∀ (s t : State) (nnn : Addr), -1 ≤ s.sp → s.sp < 15 → s.decoded = .instr (.call nnn) → cycle s = .next t →
    t.decoded = .instr .ret → ∃ u, cycle t = .next u ∧ u.pc = s.pc + 2 ∧ u.sp = s.sp ∧
      u = { s with pc := u.pc, stack := u.stack }

/-- From an empty stack, n ≤ 16 CALLs leave SP at n - 1, and after sixteen a further CALL is a no-op
(`95_test_vectors.md` section 1, W5; decision D3). -/
def Obligations.SixteenCallsFillTheStack : Prop :=
  ∀ (targets : List Addr) (s : State), s.sp = -1 → targets.length ≤ 16 →
    ∃ t, nestedCalls targets s = .next t ∧ t.sp = (targets.length : Int) - 1 ∧
      (targets.length = 16 → ∀ nnn, exec (.call nnn) t = .next t)

/-- SE Vx, nn and SNE Vx, nn (`41_jump_call_skip.md` R183, R184): their words (D1), and PC two up exactly when the skip
is taken. -/
def Obligations.ImmediateSkipsCompareTheWholeByte : Prop :=
  ∀ (x : Nibble) (nn : Byte), DecodesTo (wordOfByte 0x3 x nn) (.seImm x nn) ∧
    DecodesTo (wordOfByte 0x4 x nn) (.sneImm x nn) ∧
    ∀ s : State,
      exec (.seImm x nn) s = .next { s with pc := if s.getV x = nn then s.pc + 2 else s.pc } ∧
      exec (.sneImm x nn) s = .next { s with pc := if s.getV x ≠ nn then s.pc + 2 else s.pc }

/-- SE Vx, Vy and SNE Vx, Vy (R185, R186, decision D7): their words (D1), the low nibble ignored unless `STRICT_5_9`,
and PC two up exactly when the skip is taken. -/
def Obligations.RegisterSkipsCompareTwoRegisters : Prop :=
  ∀ x y : Nibble,
    (∀ (p : Config.Params) (q : Nibble), p.strict59 = false ∨ q = 0 →
      decode p (wordOfNibbles 0x5 x y q) = .instr (.seReg x y) ∧
      decode p (wordOfNibbles 0x9 x y q) = .instr (.sneReg x y)) ∧
    ∀ s : State,
      exec (.seReg x y) s = .next { s with pc := if s.getV x = s.getV y then s.pc + 2 else s.pc } ∧
      exec (.sneReg x y) s = .next { s with pc := if s.getV x ≠ s.getV y then s.pc + 2 else s.pc }

/-! ## Register arithmetic and logic -/

/-- LD Vx, nn, ADD Vx, nn and LD Vx, Vy (`42_alu.md` R211, R212, R213): their words (D1), V[x] alone changed, the sum
modulo 256 with no carry flag. -/
def Obligations.LoadsAndImmediateAddWriteVx : Prop :=
  (∀ (x : Nibble) (nn : Byte), DecodesTo (wordOfByte 0x6 x nn) (.ldImm x nn) ∧
    DecodesTo (wordOfByte 0x7 x nn) (.addImm x nn) ∧
    ∀ s : State,
      exec (.ldImm x nn) s = .next { s with v := s.v.set x.toNat nn x.isLt } ∧
      exec (.addImm x nn) s = .next { s with
        v := s.v.set x.toNat (BitVec.ofNat 8 (((s.getV x).toNat + nn.toNat) % 256)) x.isLt }) ∧
  (∀ x y : Nibble, DecodesTo (wordOfNibbles 0x8 x y 0x0) (.ldReg x y) ∧
    ∀ s : State, exec (.ldReg x y) s = .next { s with v := s.v.set x.toNat (s.getV y) x.isLt })

/-- OR, AND and XOR (`42_alu.md` R214, R215, R216): their words (D1), V[x] bit by bit, VF not written as a flag, nothing
else changed. -/
def Obligations.LogicWritesVxBitwise : Prop :=
  ∀ x y : Nibble, DecodesTo (wordOfNibbles 0x8 x y 0x1) (.orReg x y) ∧
    DecodesTo (wordOfNibbles 0x8 x y 0x2) (.andReg x y) ∧ DecodesTo (wordOfNibbles 0x8 x y 0x3) (.xorReg x y) ∧
    ∀ s : State,
      (∃ t, exec (.orReg x y) s = .next t ∧ t = { s with v := t.v } ∧ (∀ k, k ≠ x → t.getV k = s.getV k) ∧
        ∀ j < 8, (t.getV x).getLsbD j = ((s.getV x).getLsbD j || (s.getV y).getLsbD j)) ∧
      (∃ t, exec (.andReg x y) s = .next t ∧ t = { s with v := t.v } ∧ (∀ k, k ≠ x → t.getV k = s.getV k) ∧
        ∀ j < 8, (t.getV x).getLsbD j = ((s.getV x).getLsbD j && (s.getV y).getLsbD j)) ∧
      (∃ t, exec (.xorReg x y) s = .next t ∧ t = { s with v := t.v } ∧ (∀ k, k ≠ x → t.getV k = s.getV k) ∧
        ∀ j < 8, (t.getV x).getLsbD j = ((s.getV x).getLsbD j ^^ (s.getV y).getLsbD j))

/-- ADD Vx, Vy (`42_alu.md` R217): its word (D1), V[x] the sum modulo 256, VF the carry, written last so that VF keeps
the carry when x = F. -/
def Obligations.AddSetsTheCarryLast : Prop :=
  ∀ x y : Nibble, DecodesTo (wordOfNibbles 0x8 x y 0x4) (.addReg x y) ∧
    ∀ s : State, ∃ t, exec (.addReg x y) s = .next t ∧ t = { s with v := t.v } ∧
      ∀ k, t.getV k = if k = 0xF then (if (s.getV x).toNat + (s.getV y).toNat > 255 then 1 else 0)
        else if k = x then BitVec.ofNat 8 (((s.getV x).toNat + (s.getV y).toNat) % 256) else s.getV k

/-- SUB and SUBN (`42_alu.md` R218, R220): their words (D1), the difference modulo 256 (Vx - Vy, Vy - Vx), VF = 1 when
minuend ≥ subtrahend, written last. -/
def Obligations.SubtractionsSetNoBorrowLast : Prop :=
  ∀ x y : Nibble, DecodesTo (wordOfNibbles 0x8 x y 0x5) (.sub x y) ∧ DecodesTo (wordOfNibbles 0x8 x y 0x7) (.subn x y) ∧
    ∀ s : State,
      (∃ t, exec (.sub x y) s = .next t ∧ t = { s with v := t.v } ∧
        ∀ k, t.getV k = if k = 0xF then (if (s.getV x).toNat ≥ (s.getV y).toNat then 1 else 0)
          else if k = x then BitVec.ofNat 8 (((s.getV x).toNat + 256 - (s.getV y).toNat) % 256) else s.getV k) ∧
      (∃ t, exec (.subn x y) s = .next t ∧ t = { s with v := t.v } ∧
        ∀ k, t.getV k = if k = 0xF then (if (s.getV y).toNat ≥ (s.getV x).toNat then 1 else 0)
          else if k = x then BitVec.ofNat 8 (((s.getV y).toNat + 256 - (s.getV x).toNat) % 256) else s.getV k)

/-- SHR and SHL (R219, R221, decision D5): their words (D1), the source by `SHIFT_SOURCE`, shifted by one, VF the bit
shifted out, written last. -/
def Obligations.ShiftsSetTheBitShiftedOutLast : Prop :=
  ∀ x y : Nibble, DecodesTo (wordOfNibbles 0x8 x y 0x6) (.shr x y) ∧ DecodesTo (wordOfNibbles 0x8 x y 0xE) (.shl x y) ∧
    ∀ (s : State) (src : Nat), src = (if s.params.shiftSource = .vx then s.getV x else s.getV y).toNat →
      (∃ t, exec (.shr x y) s = .next t ∧ t = { s with v := t.v } ∧
        ∀ k, t.getV k = if k = 0xF then BitVec.ofNat 8 (src % 2)
          else if k = x then BitVec.ofNat 8 (src / 2) else s.getV k) ∧
      (∃ t, exec (.shl x y) s = .next t ∧ t = { s with v := t.v } ∧
        ∀ k, t.getV k = if k = 0xF then BitVec.ofNat 8 (src / 128)
          else if k = x then BitVec.ofNat 8 (src * 2 % 256) else s.getV k)

/-! ## Index, V0-relative jump, random byte -/

/-- LD I, nnn and ADD I, Vx (`43_index_jump_random.md` R250, `46_timers_index_memory.md` R336): their words (D1), I
alone changed, the sum modulo 4096 and no flag. -/
def Obligations.IndexLoadAndAddWriteI : Prop :=
  (∀ nnn : Addr, DecodesTo (wordOfAddr 0xA nnn) (.ldI nnn) ∧ ∀ s : State, exec (.ldI nnn) s = .next { s with i := nnn }) ∧
  (∀ x : Nibble, DecodesTo (wordOfByte 0xF x 0x1E) (.addI x) ∧
    ∀ s : State, exec (.addI x) s = .next { s with i := BitVec.ofNat 12 ((s.i.toNat + (s.getV x).toNat) % 4096) })

/-- LD F, Vx (R337, decision D11): its word (D1), I = 5 * V[x], or 10 * V[x] + 80 in extended mode, not masked and
always below 4096. -/
def Obligations.FontPointerFollowsExt : Prop :=
  ∀ x : Nibble, DecodesTo (wordOfByte 0xF x 0x29) (.ldF x) ∧
    ∀ s : State, ∃ t, exec (.ldF x) s = .next t ∧ t = { s with i := t.i } ∧
      t.i.toNat = if s.ext then 10 * (s.getV x).toNat + 80 else 5 * (s.getV x).toNat

/-- JP V0, nnn (R251, decision D17): its word (D1), PC two below the target after execute (decision D16, log entry
28), and the cycle lands on (nnn + V0) mod 4096. -/
def Obligations.JpV0AddsV0 : Prop :=
  ∀ nnn : Addr, DecodesTo (wordOfAddr 0xB nnn) (.jpV0 nnn) ∧
    ∀ s : State, (∃ t, exec (.jpV0 nnn) s = .next t ∧ t = { s with pc := t.pc } ∧
        t.pc.toNat = (nnn.toNat + (s.getV 0).toNat + 4094) % 4096) ∧
      (s.decoded = .instr (.jpV0 nnn) →
        cycle s = .next { s with pc := BitVec.ofNat 12 ((nnn.toNat + (s.getV 0).toNat) % 4096) })

/-- RND Vx, nn (`43_index_jump_random.md` R252): its word (D1), one random byte consumed whatever nn is, and V[x] that
byte, a free value, masked with nn. -/
def Obligations.RndMasksOneRandomByte : Prop :=
  ∀ (x : Nibble) (nn : Byte), DecodesTo (wordOfByte 0xC x nn) (.rnd x nn) ∧
    ∀ s : State, ∃ t, exec (.rnd x nn) s = .next t ∧ t.draws = s.draws + 1 ∧
      (∀ k, t.getV k = if k = x then Config.randomByte s.draws &&& nn else s.getV k) ∧
      t = { s with v := t.v, draws := t.draws }

/-! ## Draw -/

/-- REFINEMENT. DRW Vx, Vy, n (R270 to R276, R278): its words (D1), and the loop of R276 flips exactly the physical
cells the clipped sprite covers with a set bit, VF is 1 when one of them was lit and else 0, and nothing else changes.
The order of a big-sprite row's bytes is decision D12. -/
def Obligations.DrwFlipsExactlyTheCoveredCells : Prop :=
  ∀ x y n : Nibble, DecodesTo (wordOfNibbles 0xD x y n) (.drw x y n) ∧
    ∀ s : State, ∃ t, exec (.drw x y n) s = .next t ∧ t = { s with v := t.v, disp := t.disp } ∧
      (∀ px < 128, ∀ py < 64,
        Display.pixel t.disp px py = (Display.pixel s.disp px py ^^ spriteCovers s x y n px py)) ∧
      (∀ k, k ≠ 0xF → t.getV k = s.getV k) ∧ (t.getV 0xF = 0 ∨ t.getV 0xF = 1) ∧
      (t.getV 0xF = 1 ↔ ∃ px < 128, ∃ py < 64, Display.pixel s.disp px py = true ∧ spriteCovers s x y n px py = true)

/-- Two successive draws of the same sprite at the same position restore the buffer, and the second reports a
collision exactly when the first lit some cell, that is when some covered cell was dark before it
(`95_test_vectors.md` section 1, W7). The condition follows R276's pseudocode and not its corner case (log entry 31);
on a buffer that is dark under the sprite the two agree: "at least one set sprite bit lies inside the clip". -/
def Obligations.DrawingTwiceRestoresTheBuffer : Prop :=
  ∀ (s t u : State) (x y n : Nibble), exec (.drw x y n) s = .next t → t.getV x = s.getV x → t.getV y = s.getV y →
    exec (.drw x y n) t = .next u →
      u.disp = s.disp ∧ (u.getV 0xF = 1 ↔
        ∃ px < 128, ∃ py < 64, spriteCovers s x y n px py = true ∧ Display.pixel s.disp px py = false)

/-- DRW with n = 0 in low-res draws nothing and leaves VF = 0; every other draw covers at least one row (R271, R273,
R279). -/
def Obligations.ZeroHeightDrawOnlyClearsVf : Prop :=
  ∀ (s : State) (x y : Nibble),
    (s.ext = false → exec (.drw x y 0) s = .next { s with v := s.v.set 15 0 }) ∧
    (∀ n, s.ext = true ∨ n ≠ 0 → 0 < min (drawGeometry s.ext n).spriteHeight
      ((drawGeometry s.ext n).spaceHeight - (s.getV y).toNat % (drawGeometry s.ext n).spaceHeight))

/-! ## Keys -/

/-- SKP Vx and SKNP Vx (R310 to R312, decision D9): their words (D1), and PC two up exactly when the skip is taken, for
V[x] in 0..15, and above 15 under each value policy. -/
def Obligations.KeySkipsTestTheNamedKey : Prop :=
  ∀ x : Nibble, DecodesTo (wordOfByte 0xE x 0x9E) (.skp x) ∧ DecodesTo (wordOfByte 0xE x 0xA1) (.sknp x) ∧
    ∀ (s : State) (down : Bool),
      ((∃ k : Fin 16, (s.getV x).toNat = k.val ∧ down = s.key[k.val]) ∨
        ((s.getV x).toNat > 15 ∧ s.params.keyIndexPolicy = .lowNibble ∧
          ∃ k : Fin 16, (s.getV x).toNat % 16 = k.val ∧ down = s.key[k.val]) ∨
        ((s.getV x).toNat > 15 ∧ s.params.keyIndexPolicy = .notPressed ∧ down = false)) →
      exec (.skp x) s = .next { s with pc := if down then s.pc + 2 else s.pc } ∧
      exec (.sknp x) s = .next { s with pc := if down then s.pc else s.pc + 2 }

/-- SKP Vx and SKNP Vx with V[x] above 15 under the `fault` policy stop with the model fault and the instruction's PC
(R312, R372, decision D9; log entries 6 and 13). -/
def Obligations.KeySkipsFaultAboveFifteenUnderFaultPolicy : Prop :=
  ∀ (s : State) (x : Nibble), s.params.keyIndexPolicy = .fault → (s.getV x).toNat > 15 →
    exec (.skp x) s = .fault (.keyIndexOutOfRange s.pc) ∧ exec (.sknp x) s = .fault (.keyIndexOutOfRange s.pc)

/-- LD Vx, K (`46_timers_index_memory.md` R331, R332): its word (D1); with no key of 0..14 pressed the rewind, so that
any number of cycles of the same tick leaves the state as it is; else V[x] the lowest pressed index and PC left to the
advance. -/
def Obligations.KeyWaitTakesTheLowestOfKeysZeroToFourteen : Prop :=
  ∀ x : Nibble, DecodesTo (wordOfByte 0xF x 0x0A) (.ldVxK x) ∧
    (∀ s : State, (∀ k : Fin 15, s.key[k.val] = false) →
      exec (.ldVxK x) s = .next { s with pc := BitVec.ofNat 12 ((s.pc.toNat + 4094) % 4096) } ∧
      (s.decoded = .instr (.ldVxK x) → ∀ n, runCycles n s = .next s)) ∧
    (∀ (s : State) (k : Fin 15), s.key[k.val] = true → (∀ j : Fin 15, j < k → s.key[j.val] = false) →
      exec (.ldVxK x) s = .next { s with v := s.v.set x.toNat (BitVec.ofNat 8 k.val) x.isLt })

/-! ## Timers and memory transfer -/

/-- LD Vx, DT, LD DT, Vx and LD ST, Vx (`46_timers_index_memory.md` R330, R333, R334): their words (D1), and the one
register each writes. -/
def Obligations.TimerLoadsAndStores : Prop :=
  ∀ x : Nibble, DecodesTo (wordOfByte 0xF x 0x07) (.ldVxDt x) ∧ DecodesTo (wordOfByte 0xF x 0x15) (.ldDtVx x) ∧
    DecodesTo (wordOfByte 0xF x 0x18) (.ldStVx x) ∧
    ∀ s : State, exec (.ldVxDt x) s = .next { s with v := s.v.set x.toNat s.dt x.isLt } ∧
      exec (.ldDtVx x) s = .next { s with dt := s.getV x } ∧ exec (.ldStVx x) s = .next { s with st := s.getV x }

/-- LD B, Vx (`46_timers_index_memory.md` R338): its word (D1), the three decimal digits of V[x], hundreds first, at I,
I + 1 and I + 2 modulo 4096, every other byte as before, nothing but memory changed. -/
def Obligations.BcdStoresThreeDigits : Prop :=
  ∀ x : Nibble, DecodesTo (wordOfByte 0xF x 0x33) (.ldB x) ∧
    ∀ s : State, Memory.wf s.params s.mem = true → ∃ t, exec (.ldB x) s = .next t ∧ t = { s with mem := t.mem } ∧
      ∀ a : Addr, (t.memRead a).toNat = if a = s.i then (s.getV x).toNat / 100
        else if a = s.i + 1 then (s.getV x).toNat / 10 % 10
        else if a = s.i + 2 then (s.getV x).toNat % 10 else (s.memRead a).toNat

/-- LD [I], Vx (R339, decision D6): its word (D1), V[k] at (I + k) mod 4096 for k in 0..x, every other byte as before, I
by `LOADSTORE_I_MODE`, nothing else changed. -/
def Obligations.BlockStoreWritesV0ToVx : Prop :=
  ∀ x : Nibble, DecodesTo (wordOfByte 0xF x 0x55) (.ldMemVx x) ∧
    ∀ s : State, Memory.wf s.params s.mem = true → ∃ t, exec (.ldMemVx x) s = .next t ∧
      (∀ k : Nibble, k ≤ x → t.memRead (s.i + BitVec.ofNat 12 k.toNat) = s.getV k) ∧
      (∀ a : Addr, (∀ k ≤ x.toNat, a ≠ s.i + BitVec.ofNat 12 k) → t.memRead a = s.memRead a) ∧
      t.i.toNat = (match s.params.loadStoreIMode with
        | .unchanged => s.i.toNat
        | .plusX => (s.i.toNat + x.toNat) % 4096
        | .plusXPlus1 => (s.i.toNat + x.toNat + 1) % 4096) ∧
      t = { s with mem := t.mem, i := t.i }

/-- LD Vx, [I] (R340, decision D6): its word (D1), V[k] from (I + k) mod 4096 for k in 0..x, VF too when x = F, memory
not changed, I by `LOADSTORE_I_MODE`, nothing else changed. -/
def Obligations.BlockLoadReadsV0ToVx : Prop :=
  ∀ x : Nibble, DecodesTo (wordOfByte 0xF x 0x65) (.ldVxMem x) ∧
    ∀ s : State, ∃ t, exec (.ldVxMem x) s = .next t ∧
      (∀ k : Nibble, t.getV k =
        if k.toNat ≤ x.toNat then Memory.read s.params s.mem ((s.i.toNat + k.toNat) % 4096) else s.getV k) ∧
      t.i.toNat = (match s.params.loadStoreIMode with
        | .unchanged => s.i.toNat
        | .plusX => (s.i.toNat + x.toNat) % 4096
        | .plusXPlus1 => (s.i.toNat + x.toNat + 1) % 4096) ∧
      t = { s with v := t.v, i := t.i }

/-! ## Frames: what every instruction leaves unchanged -/

/-- Every V register but an instruction's destination, and VF where it writes a flag, is unchanged (`10_state.md`
section 7). -/
def Obligations.OnlyDestinationsAndFlagsChangeV : Prop :=
  ∀ (i : Instr) (s t : State), exec i s = .next t → ∀ k, mayWriteV i k = false → t.getV k = s.getV k

/-- I is unchanged but by LD I, ADD I, LD F and, where `LOADSTORE_I_MODE` is not `unchanged`, the block transfers
(`10_state.md` section 3). -/
def Obligations.OnlyIndexInstructionsChangeI : Prop :=
  ∀ (i : Instr) (s t : State), exec i s = .next t → mayWriteI s.params i = false → t.i = s.i

/-- Every byte of memory is unchanged but the bytes LD B and LD [I] store from address I on: three, or x + 1
(`20_memory.md` sections 1 and 2). -/
def Obligations.OnlyStoredBytesChange : Prop :=
  ∀ (i : Instr) (s t : State), exec i s = .next t →
    ∀ a : Addr, (∀ k < storedBytes i, a ≠ s.indexed k) → t.memRead a = s.memRead a

/-- Only CALL writes a stack slot, the one SP then names; only CALL and RET change SP (`10_state.md` sections 3 and 4;
the SP encoding is decision D3, log entry 11). -/
def Obligations.OnlyCallAndRetTouchTheStack : Prop :=
  ∀ (i : Instr) (s t : State), exec i s = .next t →
    ((∀ nnn, i ≠ .call nnn) → t.stack = s.stack ∧ (i ≠ .ret → t.sp = s.sp)) ∧
    (∀ k : Fin 16, (k.val : Int) ≠ t.sp → -1 ≤ s.sp → t.stack[k.val] = s.stack[k.val])

/-- DT is written by LD DT, Vx alone, ST by LD ST, Vx alone, `ext` by HIGH and LOW alone (`10_state.md` section 3). -/
def Obligations.OnlyTheirWritersChangeTimersAndExt : Prop :=
  ∀ (i : Instr) (s t : State), exec i s = .next t →
    ((∀ x, i ≠ .ldDtVx x) → t.dt = s.dt) ∧ ((∀ x, i ≠ .ldStVx x) → t.st = s.st) ∧
    (i ≠ .high → i ≠ .low → t.ext = s.ext)

/-- The display is changed by CLS, the scrolls and DRW alone (`10_state.md` section 5), and the random-byte port is read
by RND alone, once (`60_exceptions.md` section 4). -/
def Obligations.OnlyDrawingChangesDisplayAndOnlyRndDraws : Prop :=
  ∀ (i : Instr) (s t : State), exec i s = .next t →
    (mayWriteDisp i = false → t.disp = s.disp) ∧ ((∀ x nn, i ≠ .rnd x nn) → t.draws = s.draws)

/-- PC is moved during execute by the jumps, CALL, RET, the skips, EXIT and LD Vx, K alone; no instruction changes the
keys, the tick list or the parameters (`10_state.md` sections 5 and 6). -/
def Obligations.OnlyControlFlowMovesPc : Prop :=
  ∀ (i : Instr) (s t : State), exec i s = .next t →
    (mayMovePc i = false → t.pc = s.pc) ∧ t.key = s.key ∧ t.ticks = s.ticks ∧ t.params = s.params
end

