-- ==== Sys2Proof/Laws/Decode.lean ====
section
/-! SUPPORT. The fields of the words the encoder builds, a word made of its fields, and a word made of two bytes. -/

namespace Sys2Proof

variable (t x y n : Nibble) (nn : Byte) (nnn : Addr)

@[simp] theorem fieldT_wordOfNibbles : fieldT (wordOfNibbles t x y n) = t := by
  apply BitVec.eq_of_getLsbD_eq
  intro k hk
  simp only [wordOfNibbles, fieldT, BitVec.getLsbD_extractLsb', BitVec.getLsbD_append]
  interval_cases k <;> simp

@[simp] theorem fieldX_wordOfNibbles : fieldX (wordOfNibbles t x y n) = x := by
  apply BitVec.eq_of_getLsbD_eq
  intro k hk
  simp only [wordOfNibbles, fieldX, BitVec.getLsbD_extractLsb', BitVec.getLsbD_append]
  interval_cases k <;> simp

@[simp] theorem fieldY_wordOfNibbles : fieldY (wordOfNibbles t x y n) = y := by
  apply BitVec.eq_of_getLsbD_eq
  intro k hk
  simp only [wordOfNibbles, fieldY, BitVec.getLsbD_extractLsb', BitVec.getLsbD_append]
  interval_cases k <;> simp

@[simp] theorem fieldN_wordOfNibbles : fieldN (wordOfNibbles t x y n) = n := by
  apply BitVec.eq_of_getLsbD_eq
  intro k hk
  simp only [wordOfNibbles, fieldN, BitVec.getLsbD_extractLsb', BitVec.getLsbD_append]
  interval_cases k <;> simp

@[simp] theorem fieldT_wordOfByte : fieldT (wordOfByte t x nn) = t := by
  apply BitVec.eq_of_getLsbD_eq
  intro k hk
  simp only [wordOfByte, fieldT, BitVec.getLsbD_extractLsb', BitVec.getLsbD_append]
  interval_cases k <;> simp

@[simp] theorem fieldX_wordOfByte : fieldX (wordOfByte t x nn) = x := by
  apply BitVec.eq_of_getLsbD_eq
  intro k hk
  simp only [wordOfByte, fieldX, BitVec.getLsbD_extractLsb', BitVec.getLsbD_append]
  interval_cases k <;> simp

@[simp] theorem fieldNn_wordOfByte : fieldNn (wordOfByte t x nn) = nn := by
  apply BitVec.eq_of_getLsbD_eq
  intro k hk
  simp only [wordOfByte, fieldNn, BitVec.getLsbD_extractLsb', BitVec.getLsbD_append]
  interval_cases k <;> simp

@[simp] theorem fieldT_wordOfAddr : fieldT (wordOfAddr t nnn) = t := by
  apply BitVec.eq_of_getLsbD_eq
  intro k hk
  simp only [wordOfAddr, fieldT, BitVec.getLsbD_extractLsb', BitVec.getLsbD_append]
  interval_cases k <;> simp

@[simp] theorem fieldNnn_wordOfAddr : fieldNnn (wordOfAddr t nnn) = nnn := by
  apply BitVec.eq_of_getLsbD_eq
  intro k hk
  simp only [wordOfAddr, fieldNnn, BitVec.getLsbD_extractLsb', BitVec.getLsbD_append]
  interval_cases k <;> simp

/-- A word is its fields put together (`30_encoding.md` R101). -/
theorem wordOfNibbles_fields (op : Word) : wordOfNibbles (fieldT op) (fieldX op) (fieldY op) (fieldN op) = op := by
  apply BitVec.eq_of_getLsbD_eq
  intro k hk
  simp only [wordOfNibbles, fieldT, fieldX, fieldY, fieldN, BitVec.getLsbD_extractLsb', BitVec.getLsbD_append]
  interval_cases k <;> simp

/-- A word is its fields put together (`30_encoding.md` R101). -/
theorem wordOfByte_fields (op : Word) : wordOfByte (fieldT op) (fieldX op) (fieldNn op) = op := by
  apply BitVec.eq_of_getLsbD_eq
  intro k hk
  simp only [wordOfByte, fieldT, fieldX, fieldNn, BitVec.getLsbD_extractLsb', BitVec.getLsbD_append]
  interval_cases k <;> simp

/-- A word is its fields put together (`30_encoding.md` R101). -/
theorem wordOfAddr_fields (op : Word) : wordOfAddr (fieldT op) (fieldNnn op) = op := by
  apply BitVec.eq_of_getLsbD_eq
  intro k hk
  simp only [wordOfAddr, fieldT, fieldNnn, BitVec.getLsbD_extractLsb', BitVec.getLsbD_append]
  interval_cases k <;> simp

@[simp] theorem fieldY_wordOfByte : fieldY (wordOfByte t x nn) = nn.extractLsb' 4 4 := by
  apply BitVec.eq_of_getLsbD_eq
  intro k hk
  simp only [wordOfByte, fieldY, BitVec.getLsbD_extractLsb', BitVec.getLsbD_append]
  interval_cases k <;> simp

@[simp] theorem fieldN_wordOfByte : fieldN (wordOfByte t x nn) = nn.extractLsb' 0 4 := by
  apply BitVec.eq_of_getLsbD_eq
  intro k hk
  simp only [wordOfByte, fieldN, BitVec.getLsbD_extractLsb', BitVec.getLsbD_append]
  interval_cases k <;> simp

theorem encode_cls : encode .cls = wordOfNibbles 0x0 0x0 0xE 0x0 := by decide
theorem encode_ret : encode .ret = wordOfNibbles 0x0 0x0 0xE 0xE := by decide
theorem encode_exit : encode .exit = wordOfNibbles 0x0 0x0 0xF 0xD := by decide
theorem encode_high : encode .high = wordOfNibbles 0x0 0x0 0xF 0xF := by decide
theorem encode_low : encode .low = wordOfNibbles 0x0 0x0 0xF 0xE := by decide
theorem encode_scr : encode .scr = wordOfNibbles 0x0 0x0 0xF 0xB := by decide
theorem encode_scl : encode .scl = wordOfNibbles 0x0 0x0 0xF 0xC := by decide

/-- The low byte is its two nibbles. -/
theorem fieldNn_eq (op : Word) : fieldNn op = (fieldY op ++ fieldN op : BitVec (4 + 4)) := by
  apply BitVec.eq_of_getLsbD_eq
  intro k hk
  simp only [fieldY, fieldN, fieldNn, BitVec.getLsbD_extractLsb', BitVec.getLsbD_append]
  interval_cases k <;> simp

/-- The bytes a word is laid out in read back as the word (`20_memory.md` R71). -/
theorem decodeBytes_bytesOfWord (p : Config.Params) (op : Word) (rest : List Byte) :
    decodeBytes p (bytesOfWord op ++ rest) = (decode p op, rest) := by
  have h : wordOfBytes (op.extractLsb' 8 8) (op.extractLsb' 0 8) = op := by
    apply BitVec.eq_of_getLsbD_eq
    intro k hk
    simp only [wordOfBytes, BitVec.getLsbD_extractLsb', BitVec.getLsbD_append]
    interval_cases k <;> simp
  simp only [bytesOfWord, List.cons_append, List.nil_append, decodeBytes, h]

/-- Every operand is in its field's range, because the constructors carry fields of that width. -/
theorem Instr.wellFormed_all (i : Instr) : i.wellFormed = true := by
  have h4 : ∀ k : Nibble, k.toNat < 16 := fun k => k.isLt
  have h8 : ∀ k : Byte, k.toNat < 256 := fun k => k.isLt
  have h12 : ∀ k : Addr, k.toNat < 4096 := fun k => k.isLt
  cases i <;> simp [Instr.wellFormed, isRegister, isN, isNn, isNnn, h4, h8, h12]

end Sys2Proof
end

