-- ==== Sys2Proof/Laws/State.lean ====
section
/-! SUPPORT. One lemma per field per update of a state, so that no proof unfolds a record update. -/

namespace Sys2Proof.Machine

variable (s : State)

/-! ### memWrite writes `mem` alone -/

@[simp] theorem State.memWrite_mem (a : Addr) (b : Byte) : (s.memWrite a b).mem = Memory.write s.params s.mem a.toNat b := rfl
@[simp] theorem State.memWrite_v (a : Addr) (b : Byte) : (s.memWrite a b).v = s.v := rfl
@[simp] theorem State.memWrite_i (a : Addr) (b : Byte) : (s.memWrite a b).i = s.i := rfl
@[simp] theorem State.memWrite_pc (a : Addr) (b : Byte) : (s.memWrite a b).pc = s.pc := rfl
@[simp] theorem State.memWrite_sp (a : Addr) (b : Byte) : (s.memWrite a b).sp = s.sp := rfl
@[simp] theorem State.memWrite_stack (a : Addr) (b : Byte) : (s.memWrite a b).stack = s.stack := rfl
@[simp] theorem State.memWrite_dt (a : Addr) (b : Byte) : (s.memWrite a b).dt = s.dt := rfl
@[simp] theorem State.memWrite_st (a : Addr) (b : Byte) : (s.memWrite a b).st = s.st := rfl
@[simp] theorem State.memWrite_disp (a : Addr) (b : Byte) : (s.memWrite a b).disp = s.disp := rfl
@[simp] theorem State.memWrite_ext (a : Addr) (b : Byte) : (s.memWrite a b).ext = s.ext := rfl
@[simp] theorem State.memWrite_key (a : Addr) (b : Byte) : (s.memWrite a b).key = s.key := rfl
@[simp] theorem State.memWrite_draws (a : Addr) (b : Byte) : (s.memWrite a b).draws = s.draws := rfl
@[simp] theorem State.memWrite_ticks (a : Addr) (b : Byte) : (s.memWrite a b).ticks = s.ticks := rfl
@[simp] theorem State.memWrite_params (a : Addr) (b : Byte) : (s.memWrite a b).params = s.params := rfl

/-! ### setV writes `v` alone -/

@[simp] theorem State.setV_mem (x : Nibble) (b : Byte) : (s.setV x b).mem = s.mem := rfl
@[simp] theorem State.setV_v (x : Nibble) (b : Byte) : (s.setV x b).v = s.v.set x.toNat b x.isLt := rfl
@[simp] theorem State.setV_i (x : Nibble) (b : Byte) : (s.setV x b).i = s.i := rfl
@[simp] theorem State.setV_pc (x : Nibble) (b : Byte) : (s.setV x b).pc = s.pc := rfl
@[simp] theorem State.setV_sp (x : Nibble) (b : Byte) : (s.setV x b).sp = s.sp := rfl
@[simp] theorem State.setV_stack (x : Nibble) (b : Byte) : (s.setV x b).stack = s.stack := rfl
@[simp] theorem State.setV_dt (x : Nibble) (b : Byte) : (s.setV x b).dt = s.dt := rfl
@[simp] theorem State.setV_st (x : Nibble) (b : Byte) : (s.setV x b).st = s.st := rfl
@[simp] theorem State.setV_disp (x : Nibble) (b : Byte) : (s.setV x b).disp = s.disp := rfl
@[simp] theorem State.setV_ext (x : Nibble) (b : Byte) : (s.setV x b).ext = s.ext := rfl
@[simp] theorem State.setV_key (x : Nibble) (b : Byte) : (s.setV x b).key = s.key := rfl
@[simp] theorem State.setV_draws (x : Nibble) (b : Byte) : (s.setV x b).draws = s.draws := rfl
@[simp] theorem State.setV_ticks (x : Nibble) (b : Byte) : (s.setV x b).ticks = s.ticks := rfl
@[simp] theorem State.setV_params (x : Nibble) (b : Byte) : (s.setV x b).params = s.params := rfl

/-! ### setRegs writes `v` alone -/

@[simp] theorem State.setRegs_mem (w : Vector Byte 16) : (s.setRegs w).mem = s.mem := rfl
@[simp] theorem State.setRegs_v (w : Vector Byte 16) : (s.setRegs w).v = w := rfl
@[simp] theorem State.setRegs_i (w : Vector Byte 16) : (s.setRegs w).i = s.i := rfl
@[simp] theorem State.setRegs_pc (w : Vector Byte 16) : (s.setRegs w).pc = s.pc := rfl
@[simp] theorem State.setRegs_sp (w : Vector Byte 16) : (s.setRegs w).sp = s.sp := rfl
@[simp] theorem State.setRegs_stack (w : Vector Byte 16) : (s.setRegs w).stack = s.stack := rfl
@[simp] theorem State.setRegs_dt (w : Vector Byte 16) : (s.setRegs w).dt = s.dt := rfl
@[simp] theorem State.setRegs_st (w : Vector Byte 16) : (s.setRegs w).st = s.st := rfl
@[simp] theorem State.setRegs_disp (w : Vector Byte 16) : (s.setRegs w).disp = s.disp := rfl
@[simp] theorem State.setRegs_ext (w : Vector Byte 16) : (s.setRegs w).ext = s.ext := rfl
@[simp] theorem State.setRegs_key (w : Vector Byte 16) : (s.setRegs w).key = s.key := rfl
@[simp] theorem State.setRegs_draws (w : Vector Byte 16) : (s.setRegs w).draws = s.draws := rfl
@[simp] theorem State.setRegs_ticks (w : Vector Byte 16) : (s.setRegs w).ticks = s.ticks := rfl
@[simp] theorem State.setRegs_params (w : Vector Byte 16) : (s.setRegs w).params = s.params := rfl

/-! ### setI writes `i` alone -/

@[simp] theorem State.setI_mem (a : Addr) : (s.setI a).mem = s.mem := rfl
@[simp] theorem State.setI_v (a : Addr) : (s.setI a).v = s.v := rfl
@[simp] theorem State.setI_i (a : Addr) : (s.setI a).i = a := rfl
@[simp] theorem State.setI_pc (a : Addr) : (s.setI a).pc = s.pc := rfl
@[simp] theorem State.setI_sp (a : Addr) : (s.setI a).sp = s.sp := rfl
@[simp] theorem State.setI_stack (a : Addr) : (s.setI a).stack = s.stack := rfl
@[simp] theorem State.setI_dt (a : Addr) : (s.setI a).dt = s.dt := rfl
@[simp] theorem State.setI_st (a : Addr) : (s.setI a).st = s.st := rfl
@[simp] theorem State.setI_disp (a : Addr) : (s.setI a).disp = s.disp := rfl
@[simp] theorem State.setI_ext (a : Addr) : (s.setI a).ext = s.ext := rfl
@[simp] theorem State.setI_key (a : Addr) : (s.setI a).key = s.key := rfl
@[simp] theorem State.setI_draws (a : Addr) : (s.setI a).draws = s.draws := rfl
@[simp] theorem State.setI_ticks (a : Addr) : (s.setI a).ticks = s.ticks := rfl
@[simp] theorem State.setI_params (a : Addr) : (s.setI a).params = s.params := rfl

/-! ### setPc writes `pc` alone -/

@[simp] theorem State.setPc_mem (a : Addr) : (s.setPc a).mem = s.mem := rfl
@[simp] theorem State.setPc_v (a : Addr) : (s.setPc a).v = s.v := rfl
@[simp] theorem State.setPc_i (a : Addr) : (s.setPc a).i = s.i := rfl
@[simp] theorem State.setPc_pc (a : Addr) : (s.setPc a).pc = a := rfl
@[simp] theorem State.setPc_sp (a : Addr) : (s.setPc a).sp = s.sp := rfl
@[simp] theorem State.setPc_stack (a : Addr) : (s.setPc a).stack = s.stack := rfl
@[simp] theorem State.setPc_dt (a : Addr) : (s.setPc a).dt = s.dt := rfl
@[simp] theorem State.setPc_st (a : Addr) : (s.setPc a).st = s.st := rfl
@[simp] theorem State.setPc_disp (a : Addr) : (s.setPc a).disp = s.disp := rfl
@[simp] theorem State.setPc_ext (a : Addr) : (s.setPc a).ext = s.ext := rfl
@[simp] theorem State.setPc_key (a : Addr) : (s.setPc a).key = s.key := rfl
@[simp] theorem State.setPc_draws (a : Addr) : (s.setPc a).draws = s.draws := rfl
@[simp] theorem State.setPc_ticks (a : Addr) : (s.setPc a).ticks = s.ticks := rfl
@[simp] theorem State.setPc_params (a : Addr) : (s.setPc a).params = s.params := rfl

/-! ### setSp writes `sp` alone -/

@[simp] theorem State.setSp_mem (k : Int) : (s.setSp k).mem = s.mem := rfl
@[simp] theorem State.setSp_v (k : Int) : (s.setSp k).v = s.v := rfl
@[simp] theorem State.setSp_i (k : Int) : (s.setSp k).i = s.i := rfl
@[simp] theorem State.setSp_pc (k : Int) : (s.setSp k).pc = s.pc := rfl
@[simp] theorem State.setSp_sp (k : Int) : (s.setSp k).sp = k := rfl
@[simp] theorem State.setSp_stack (k : Int) : (s.setSp k).stack = s.stack := rfl
@[simp] theorem State.setSp_dt (k : Int) : (s.setSp k).dt = s.dt := rfl
@[simp] theorem State.setSp_st (k : Int) : (s.setSp k).st = s.st := rfl
@[simp] theorem State.setSp_disp (k : Int) : (s.setSp k).disp = s.disp := rfl
@[simp] theorem State.setSp_ext (k : Int) : (s.setSp k).ext = s.ext := rfl
@[simp] theorem State.setSp_key (k : Int) : (s.setSp k).key = s.key := rfl
@[simp] theorem State.setSp_draws (k : Int) : (s.setSp k).draws = s.draws := rfl
@[simp] theorem State.setSp_ticks (k : Int) : (s.setSp k).ticks = s.ticks := rfl
@[simp] theorem State.setSp_params (k : Int) : (s.setSp k).params = s.params := rfl

/-! ### setSlot writes `stack` alone -/

@[simp] theorem State.setSlot_mem (k : Int) (w : Word) : (s.setSlot k w).mem = s.mem := rfl
@[simp] theorem State.setSlot_v (k : Int) (w : Word) : (s.setSlot k w).v = s.v := rfl
@[simp] theorem State.setSlot_i (k : Int) (w : Word) : (s.setSlot k w).i = s.i := rfl
@[simp] theorem State.setSlot_pc (k : Int) (w : Word) : (s.setSlot k w).pc = s.pc := rfl
@[simp] theorem State.setSlot_sp (k : Int) (w : Word) : (s.setSlot k w).sp = s.sp := rfl
@[simp] theorem State.setSlot_stack (k : Int) (w : Word) : (s.setSlot k w).stack = s.stack.setIfInBounds k.toNat w := rfl
@[simp] theorem State.setSlot_dt (k : Int) (w : Word) : (s.setSlot k w).dt = s.dt := rfl
@[simp] theorem State.setSlot_st (k : Int) (w : Word) : (s.setSlot k w).st = s.st := rfl
@[simp] theorem State.setSlot_disp (k : Int) (w : Word) : (s.setSlot k w).disp = s.disp := rfl
@[simp] theorem State.setSlot_ext (k : Int) (w : Word) : (s.setSlot k w).ext = s.ext := rfl
@[simp] theorem State.setSlot_key (k : Int) (w : Word) : (s.setSlot k w).key = s.key := rfl
@[simp] theorem State.setSlot_draws (k : Int) (w : Word) : (s.setSlot k w).draws = s.draws := rfl
@[simp] theorem State.setSlot_ticks (k : Int) (w : Word) : (s.setSlot k w).ticks = s.ticks := rfl
@[simp] theorem State.setSlot_params (k : Int) (w : Word) : (s.setSlot k w).params = s.params := rfl

/-! ### setDt writes `dt` alone -/

@[simp] theorem State.setDt_mem (b : Byte) : (s.setDt b).mem = s.mem := rfl
@[simp] theorem State.setDt_v (b : Byte) : (s.setDt b).v = s.v := rfl
@[simp] theorem State.setDt_i (b : Byte) : (s.setDt b).i = s.i := rfl
@[simp] theorem State.setDt_pc (b : Byte) : (s.setDt b).pc = s.pc := rfl
@[simp] theorem State.setDt_sp (b : Byte) : (s.setDt b).sp = s.sp := rfl
@[simp] theorem State.setDt_stack (b : Byte) : (s.setDt b).stack = s.stack := rfl
@[simp] theorem State.setDt_dt (b : Byte) : (s.setDt b).dt = b := rfl
@[simp] theorem State.setDt_st (b : Byte) : (s.setDt b).st = s.st := rfl
@[simp] theorem State.setDt_disp (b : Byte) : (s.setDt b).disp = s.disp := rfl
@[simp] theorem State.setDt_ext (b : Byte) : (s.setDt b).ext = s.ext := rfl
@[simp] theorem State.setDt_key (b : Byte) : (s.setDt b).key = s.key := rfl
@[simp] theorem State.setDt_draws (b : Byte) : (s.setDt b).draws = s.draws := rfl
@[simp] theorem State.setDt_ticks (b : Byte) : (s.setDt b).ticks = s.ticks := rfl
@[simp] theorem State.setDt_params (b : Byte) : (s.setDt b).params = s.params := rfl

/-! ### setSt writes `st` alone -/

@[simp] theorem State.setSt_mem (b : Byte) : (s.setSt b).mem = s.mem := rfl
@[simp] theorem State.setSt_v (b : Byte) : (s.setSt b).v = s.v := rfl
@[simp] theorem State.setSt_i (b : Byte) : (s.setSt b).i = s.i := rfl
@[simp] theorem State.setSt_pc (b : Byte) : (s.setSt b).pc = s.pc := rfl
@[simp] theorem State.setSt_sp (b : Byte) : (s.setSt b).sp = s.sp := rfl
@[simp] theorem State.setSt_stack (b : Byte) : (s.setSt b).stack = s.stack := rfl
@[simp] theorem State.setSt_dt (b : Byte) : (s.setSt b).dt = s.dt := rfl
@[simp] theorem State.setSt_st (b : Byte) : (s.setSt b).st = b := rfl
@[simp] theorem State.setSt_disp (b : Byte) : (s.setSt b).disp = s.disp := rfl
@[simp] theorem State.setSt_ext (b : Byte) : (s.setSt b).ext = s.ext := rfl
@[simp] theorem State.setSt_key (b : Byte) : (s.setSt b).key = s.key := rfl
@[simp] theorem State.setSt_draws (b : Byte) : (s.setSt b).draws = s.draws := rfl
@[simp] theorem State.setSt_ticks (b : Byte) : (s.setSt b).ticks = s.ticks := rfl
@[simp] theorem State.setSt_params (b : Byte) : (s.setSt b).params = s.params := rfl

/-! ### setDisp writes `disp` alone -/

@[simp] theorem State.setDisp_mem (d : Display) : (s.setDisp d).mem = s.mem := rfl
@[simp] theorem State.setDisp_v (d : Display) : (s.setDisp d).v = s.v := rfl
@[simp] theorem State.setDisp_i (d : Display) : (s.setDisp d).i = s.i := rfl
@[simp] theorem State.setDisp_pc (d : Display) : (s.setDisp d).pc = s.pc := rfl
@[simp] theorem State.setDisp_sp (d : Display) : (s.setDisp d).sp = s.sp := rfl
@[simp] theorem State.setDisp_stack (d : Display) : (s.setDisp d).stack = s.stack := rfl
@[simp] theorem State.setDisp_dt (d : Display) : (s.setDisp d).dt = s.dt := rfl
@[simp] theorem State.setDisp_st (d : Display) : (s.setDisp d).st = s.st := rfl
@[simp] theorem State.setDisp_disp (d : Display) : (s.setDisp d).disp = d := rfl
@[simp] theorem State.setDisp_ext (d : Display) : (s.setDisp d).ext = s.ext := rfl
@[simp] theorem State.setDisp_key (d : Display) : (s.setDisp d).key = s.key := rfl
@[simp] theorem State.setDisp_draws (d : Display) : (s.setDisp d).draws = s.draws := rfl
@[simp] theorem State.setDisp_ticks (d : Display) : (s.setDisp d).ticks = s.ticks := rfl
@[simp] theorem State.setDisp_params (d : Display) : (s.setDisp d).params = s.params := rfl

/-! ### setExt writes `ext` alone -/

@[simp] theorem State.setExt_mem (e : Bool) : (s.setExt e).mem = s.mem := rfl
@[simp] theorem State.setExt_v (e : Bool) : (s.setExt e).v = s.v := rfl
@[simp] theorem State.setExt_i (e : Bool) : (s.setExt e).i = s.i := rfl
@[simp] theorem State.setExt_pc (e : Bool) : (s.setExt e).pc = s.pc := rfl
@[simp] theorem State.setExt_sp (e : Bool) : (s.setExt e).sp = s.sp := rfl
@[simp] theorem State.setExt_stack (e : Bool) : (s.setExt e).stack = s.stack := rfl
@[simp] theorem State.setExt_dt (e : Bool) : (s.setExt e).dt = s.dt := rfl
@[simp] theorem State.setExt_st (e : Bool) : (s.setExt e).st = s.st := rfl
@[simp] theorem State.setExt_disp (e : Bool) : (s.setExt e).disp = s.disp := rfl
@[simp] theorem State.setExt_ext (e : Bool) : (s.setExt e).ext = e := rfl
@[simp] theorem State.setExt_key (e : Bool) : (s.setExt e).key = s.key := rfl
@[simp] theorem State.setExt_draws (e : Bool) : (s.setExt e).draws = s.draws := rfl
@[simp] theorem State.setExt_ticks (e : Bool) : (s.setExt e).ticks = s.ticks := rfl
@[simp] theorem State.setExt_params (e : Bool) : (s.setExt e).params = s.params := rfl

/-! ### setKeys writes `key` alone -/

@[simp] theorem State.setKeys_mem (k : Keys) : (s.setKeys k).mem = s.mem := rfl
@[simp] theorem State.setKeys_v (k : Keys) : (s.setKeys k).v = s.v := rfl
@[simp] theorem State.setKeys_i (k : Keys) : (s.setKeys k).i = s.i := rfl
@[simp] theorem State.setKeys_pc (k : Keys) : (s.setKeys k).pc = s.pc := rfl
@[simp] theorem State.setKeys_sp (k : Keys) : (s.setKeys k).sp = s.sp := rfl
@[simp] theorem State.setKeys_stack (k : Keys) : (s.setKeys k).stack = s.stack := rfl
@[simp] theorem State.setKeys_dt (k : Keys) : (s.setKeys k).dt = s.dt := rfl
@[simp] theorem State.setKeys_st (k : Keys) : (s.setKeys k).st = s.st := rfl
@[simp] theorem State.setKeys_disp (k : Keys) : (s.setKeys k).disp = s.disp := rfl
@[simp] theorem State.setKeys_ext (k : Keys) : (s.setKeys k).ext = s.ext := rfl
@[simp] theorem State.setKeys_key (k : Keys) : (s.setKeys k).key = k := rfl
@[simp] theorem State.setKeys_draws (k : Keys) : (s.setKeys k).draws = s.draws := rfl
@[simp] theorem State.setKeys_ticks (k : Keys) : (s.setKeys k).ticks = s.ticks := rfl
@[simp] theorem State.setKeys_params (k : Keys) : (s.setKeys k).params = s.params := rfl

/-! ### consumeRandom writes `draws` alone -/

@[simp] theorem State.consumeRandom_mem : (s.consumeRandom).mem = s.mem := rfl
@[simp] theorem State.consumeRandom_v : (s.consumeRandom).v = s.v := rfl
@[simp] theorem State.consumeRandom_i : (s.consumeRandom).i = s.i := rfl
@[simp] theorem State.consumeRandom_pc : (s.consumeRandom).pc = s.pc := rfl
@[simp] theorem State.consumeRandom_sp : (s.consumeRandom).sp = s.sp := rfl
@[simp] theorem State.consumeRandom_stack : (s.consumeRandom).stack = s.stack := rfl
@[simp] theorem State.consumeRandom_dt : (s.consumeRandom).dt = s.dt := rfl
@[simp] theorem State.consumeRandom_st : (s.consumeRandom).st = s.st := rfl
@[simp] theorem State.consumeRandom_disp : (s.consumeRandom).disp = s.disp := rfl
@[simp] theorem State.consumeRandom_ext : (s.consumeRandom).ext = s.ext := rfl
@[simp] theorem State.consumeRandom_key : (s.consumeRandom).key = s.key := rfl
@[simp] theorem State.consumeRandom_draws : (s.consumeRandom).draws = s.draws + 1 := rfl
@[simp] theorem State.consumeRandom_ticks : (s.consumeRandom).ticks = s.ticks := rfl
@[simp] theorem State.consumeRandom_params : (s.consumeRandom).params = s.params := rfl

/-! ### The composed updates, as the plain ones they are -/

@[simp] theorem State.uniformAdvance_eq : s.uniformAdvance = s.setPc (s.pc + 2) := rfl
@[simp] theorem State.jump_eq (a : Addr) : s.jump a = s.setPc (a - 2) := rfl
@[simp] theorem State.rewind_eq : s.rewind = s.setPc (s.pc - 2) := rfl
@[simp] theorem State.push_eq (w : Word) : s.push w = (s.setSp (s.sp + 1)).setSlot (s.sp + 1) w := rfl
@[simp] theorem State.setFlag_eq (f : Byte) : s.setFlag f = s.setV vf f := rfl
@[simp] theorem State.setResultAndFlag_eq (x : Nibble) (r f : Byte) :
    s.setResultAndFlag x r f = (s.setV x r).setV vf f := rfl
@[simp] theorem State.timerStep_eq : s.timerStep = (s.setDt (countDown s.dt)).setSt (countDown s.st) := rfl

/-- A skip changes PC alone, and by 2 when its condition holds. -/
@[simp] theorem State.skipIf_eq (c : Bool) : s.skipIf c = s.setPc (if c then s.pc + 2 else s.pc) := by
  cases c <;> rfl

/-- A scroll changes the display alone. -/
@[simp] theorem State.scrollBy_eq (f : Display → Display) :
    s.scrollBy f = s.setDisp (if s.scrolls then f s.disp else s.disp) := by
  unfold State.scrollBy; split <;> rfl

/-- Bytes written to memory change memory alone. -/
theorem State.memWriteBytes_eq (a : Addr) (bs : List Byte) :
    s.memWriteBytes a bs = { s with mem := (s.memWriteBytes a bs).mem } := by
  induction bs generalizing s a with
  | nil => rfl
  | cons b rest ih => exact (ih (s.memWrite a b) (a + 1)).trans rfl

@[simp] theorem State.memWriteBytes_v (a : Addr) (bs : List Byte) : (s.memWriteBytes a bs).v = s.v := by
  rw [s.memWriteBytes_eq]
@[simp] theorem State.memWriteBytes_i (a : Addr) (bs : List Byte) : (s.memWriteBytes a bs).i = s.i := by
  rw [s.memWriteBytes_eq]
@[simp] theorem State.memWriteBytes_pc (a : Addr) (bs : List Byte) : (s.memWriteBytes a bs).pc = s.pc := by
  rw [s.memWriteBytes_eq]
@[simp] theorem State.memWriteBytes_sp (a : Addr) (bs : List Byte) : (s.memWriteBytes a bs).sp = s.sp := by
  rw [s.memWriteBytes_eq]
@[simp] theorem State.memWriteBytes_stack (a : Addr) (bs : List Byte) : (s.memWriteBytes a bs).stack = s.stack := by
  rw [s.memWriteBytes_eq]
@[simp] theorem State.memWriteBytes_dt (a : Addr) (bs : List Byte) : (s.memWriteBytes a bs).dt = s.dt := by
  rw [s.memWriteBytes_eq]
@[simp] theorem State.memWriteBytes_st (a : Addr) (bs : List Byte) : (s.memWriteBytes a bs).st = s.st := by
  rw [s.memWriteBytes_eq]
@[simp] theorem State.memWriteBytes_disp (a : Addr) (bs : List Byte) : (s.memWriteBytes a bs).disp = s.disp := by
  rw [s.memWriteBytes_eq]
@[simp] theorem State.memWriteBytes_ext (a : Addr) (bs : List Byte) : (s.memWriteBytes a bs).ext = s.ext := by
  rw [s.memWriteBytes_eq]
@[simp] theorem State.memWriteBytes_key (a : Addr) (bs : List Byte) : (s.memWriteBytes a bs).key = s.key := by
  rw [s.memWriteBytes_eq]
@[simp] theorem State.memWriteBytes_draws (a : Addr) (bs : List Byte) : (s.memWriteBytes a bs).draws = s.draws := by
  rw [s.memWriteBytes_eq]
@[simp] theorem State.memWriteBytes_ticks (a : Addr) (bs : List Byte) : (s.memWriteBytes a bs).ticks = s.ticks := by
  rw [s.memWriteBytes_eq]
@[simp] theorem State.memWriteBytes_params (a : Addr) (bs : List Byte) : (s.memWriteBytes a bs).params = s.params := by
  rw [s.memWriteBytes_eq]

end Sys2Proof.Machine
end

