-- ==== Sys2Proof/Laws/Registers.lean ====
section
/-! SUPPORT. What a register, a stack slot and a memory byte read as after each update. -/

namespace Sys2Proof.Machine

variable (s : State)

/-- A V register after a write of one. -/
theorem State.getV_setV (x k : Nibble) (b : Byte) : (s.setV x b).getV k = if k = x then b else s.getV k := by
  simp only [State.getV, State.setV, Vector.getElem_set]
  exact if_congr ⟨fun h => BitVec.eq_of_toNat_eq h.symm, fun h => h ▸ rfl⟩ rfl rfl

/-- The register just written. -/
@[simp] theorem State.getV_setV_same (x : Nibble) (b : Byte) : (s.setV x b).getV x = b := by
  rw [State.getV_setV, if_pos rfl]

/-- A V register after the result and the flag: VF has the flag, also when it is the destination. -/
theorem State.getV_resultAndFlag (x k : Nibble) (r f : Byte) :
    ((s.setV x r).setV vf f).getV k = if k = vf then f else if k = x then r else s.getV k := by
  rw [State.getV_setV, State.getV_setV]

/-- V0..Vx after a block load. -/
theorem State.getV_replaceUpTo (v : Vector Byte 16) (x k : Nibble) (f : Nat → Byte) :
    (s.setRegs (replaceUpTo v x f)).getV k = if k ≤ x then f k.toNat else v[k.toNat]'k.isLt := by
  simp only [State.getV, State.setRegs_v, replaceUpTo, Vector.getElem_ofFn, BitVec.le_def]

/-- Registers read as before where only another field changed. -/
theorem State.getV_congr {s t : State} (h : t.v = s.v) (k : Nibble) : t.getV k = s.getV k := by
  simp only [State.getV, h]

/-- Memory reads as before where memory and the fonts did not change. -/
theorem State.memRead_congr {s t : State} (hm : t.mem = s.mem) (hp : t.params = s.params) (a : Addr) :
    t.memRead a = s.memRead a := by
  simp only [State.memRead, hm, hp]

/-- A stack slot in 0..15 after a write of one. -/
theorem State.slot_setSlot {k j : Int} (hk : 0 ≤ k) (hk' : k < 16) (hj : 0 ≤ j) (w : Word) :
    (s.setSlot k w).slot j = if j = k then w else s.slot j := by
  simp only [State.slot, State.setSlot, Vector.getElem?_setIfInBounds]
  split
  · rename_i h
    have : j = k := by omega
    rw [if_pos this, if_pos (by omega)]
    rfl
  · rename_i h
    rw [if_neg (by omega)]

/-- A timer goes down by one above 0. -/
theorem countDown_toNat (b : Byte) : (countDown b).toNat = b.toNat - 1 := by
  unfold countDown
  split
  · have h1 : (1 : Byte).toNat = 1 := rfl
    have := b.isLt
    rw [BitVec.toNat_sub, h1]
    omega
  · omega

/-- A flag byte is 1 exactly when its condition holds. -/
theorem flagByte_eq_one (c : Bool) : flagByte c = 1 ↔ c = true := by
  cases c <;> decide

end Sys2Proof.Machine
end

