-- ==== Sys2Proof/Laws/Display.lean ====
section
/-! SUPPORT. The display: equality by cells, what each scroll and each toggle does to a cell, and what a whole draw does. -/

namespace Sys2Proof.Machine

variable {d : Display} {px py : Nat}

/-- Inside the buffer, a cell is a bit of its row. -/
theorem Display.pixel_eq (d : Display) (px : Nat) {py : Nat} (hy : py < 64) :
    Display.pixel d px py = (d[py]).getLsbD px := by
  simp [Display.pixel, hy]

/-- Two buffers with the same cells are the same. -/
theorem Display.ext_pixel {d e : Display}
    (h : ∀ px < 128, ∀ py < 64, Display.pixel d px py = Display.pixel e px py) : d = e := by
  apply Vector.ext
  intro py hy
  apply BitVec.eq_of_getLsbD_eq
  intro px hx
  have := h px hx py hy
  rwa [Display.pixel_eq _ _ hy, Display.pixel_eq _ _ hy] at this

/-- A blank buffer has no lit cell. -/
@[simp] theorem Display.pixel_blank (px py : Nat) : Display.pixel blankDisplay px py = false := by
  unfold Display.pixel blankDisplay
  rw [Vector.getElem?_replicate]
  split <;> simp

/-- `scroll_down` cell by cell. -/
theorem Display.pixel_scrollDown (k : Nat) (hy : py < 64) :
    Display.pixel (scrollDown k d) px py = if k ≤ py then Display.pixel d px (py - k) else false := by
  rw [Display.pixel_eq _ _ hy]
  simp only [scrollDown, Vector.getElem_ofFn, Display.pixel]
  split <;> simp

/-- `scroll_right` cell by cell. -/
theorem Display.pixel_scrollRight (k : Nat) (hx : px < 128) (hy : py < 64) :
    Display.pixel (scrollRight k d) px py = if k ≤ px then Display.pixel d (px - k) py else false := by
  rw [Display.pixel_eq _ _ hy, Display.pixel_eq _ _ hy]
  simp only [scrollRight, Vector.getElem_ofFn, BitVec.getLsbD_shiftLeft]
  by_cases h : k ≤ px
  · simp [h, hx, Nat.not_lt.2 h]
  · simp [h, Nat.lt_of_not_le h]

/-- `scroll_left` cell by cell. -/
theorem Display.pixel_scrollLeft (k : Nat) (hy : py < 64) :
    Display.pixel (scrollLeft k d) px py = if px + k < 128 then Display.pixel d (px + k) py else false := by
  rw [Display.pixel_eq _ _ hy, Display.pixel_eq _ _ hy]
  simp only [scrollLeft, Vector.getElem_ofFn, BitVec.getLsbD_ushiftRight, Nat.add_comm k px]
  split
  · rfl
  · exact BitVec.getLsbD_of_ge _ _ (by omega)

/-- A toggle flips the cell it names and no other. -/
theorem Display.pixel_toggle (cell : Nat × Nat) (hx : px < 128) (hy : py < 64) :
    Display.pixel (Display.toggle d cell.1 cell.2) px py
      = (Display.pixel d px py ^^ decide ((px, py) = cell)) := by
  obtain ⟨a, b⟩ := cell
  rw [Display.pixel_eq _ _ hy, Display.pixel_eq _ _ hy]
  simp only [Display.toggle, Vector.getElem_setIfInBounds, Prod.mk.injEq]
  split
  · rename_i h
    subst h
    simp [hy, hx]
  · rename_i h
    have hne : ¬py = b := fun e => h e.symm
    simp [hne]

/-- The toggles of a draw, cell by cell: with no cell named twice and all inside the buffer, the draw flips exactly the
cells it names. -/
theorem drawCells_pixel {cells : List (Nat × Nat)} {c : Bool} (hnd : cells.Nodup) (hx : px < 128) (hy : py < 64) :
    Display.pixel (cells.foldl drawCell (c, d)).2 px py
      = (Display.pixel d px py ^^ decide ((px, py) ∈ cells)) := by
  induction cells generalizing c d with
  | nil => simp
  | cons cell rest ih =>
    obtain ⟨hnot, hrest⟩ := List.nodup_cons.1 hnd
    rw [List.foldl_cons, drawCell, ih hrest, Display.pixel_toggle cell hx hy]
    by_cases h : (px, py) = cell
    · subst h
      simp [hnot]
    · simp [h]

/-- The collision of a draw: some cell it names was lit before. -/
theorem drawCells_collided {cells : List (Nat × Nat)} {c : Bool} (hnd : cells.Nodup)
    (hin : ∀ cell ∈ cells, cell.1 < 128 ∧ cell.2 < 64) :
    (cells.foldl drawCell (c, d)).1 = (c || cells.any fun cell => Display.pixel d cell.1 cell.2) := by
  induction cells generalizing c d with
  | nil => simp
  | cons cell rest ih =>
    obtain ⟨hnot, hrest⟩ := List.nodup_cons.1 hnd
    rw [List.foldl_cons, drawCell, ih hrest fun e he => hin e (List.mem_cons_of_mem _ he)]
    have same : ∀ e ∈ rest, Display.pixel (Display.toggle d cell.1 cell.2) e.1 e.2 = Display.pixel d e.1 e.2 := by
      intro e he
      obtain ⟨hx, hy⟩ := hin e (List.mem_cons_of_mem _ he)
      rw [Display.pixel_toggle cell hx hy]
      have : ((e.1, e.2) = cell) = False := by
        apply eq_false
        rintro rfl
        exact hnot he
      simp [this]
    have hany : (rest.any fun e => Display.pixel (Display.toggle d cell.1 cell.2) e.1 e.2)
        = rest.any fun e => Display.pixel d e.1 e.2 := by
      rw [Bool.eq_iff_iff]
      simp only [List.any_eq_true]
      exact ⟨fun ⟨e, he, h⟩ => ⟨e, he, by rwa [same e he] at h⟩, fun ⟨e, he, h⟩ => ⟨e, he, by rwa [same e he]⟩⟩
    rw [hany, List.any_cons, Bool.or_assoc]

/-- The cells of a pixel's block: those whose coordinates, divided by the scale, are the pixel's. -/
theorem mem_blockCells {scale lx ly : Nat} (hs : 0 < scale) (cell : Nat × Nat) :
    cell ∈ blockCells scale lx ly ↔ cell.1 / scale = lx ∧ cell.2 / scale = ly := by
  obtain ⟨a, b⟩ := cell
  simp only [blockCells, List.mem_flatMap, List.mem_map, List.mem_range, Prod.mk.injEq]
  constructor
  · rintro ⟨dy, hdy, dx, hdx, rfl, rfl⟩
    exact ⟨by rw [Nat.mul_add_div hs, Nat.div_eq_of_lt hdx, Nat.add_zero],
      by rw [Nat.mul_add_div hs, Nat.div_eq_of_lt hdy, Nat.add_zero]⟩
  · rintro ⟨rfl, rfl⟩
    exact ⟨b % scale, Nat.mod_lt _ hs, a % scale, Nat.mod_lt _ hs, Nat.div_add_mod _ _, Nat.div_add_mod _ _⟩

/-- A block names no cell twice. -/
theorem nodup_blockCells (scale lx ly : Nat) : (blockCells scale lx ly).Nodup := by
  unfold blockCells
  rw [List.nodup_flatMap]
  refine ⟨fun dy _ => List.nodup_range.map fun a b h => ?_, ?_⟩
  · simp only [Prod.mk.injEq] at h
    omega
  · refine List.nodup_range.imp_of_mem fun {a b} _ _ hab => ?_
    simp only [Function.onFun]
    intro cell h1 h2
    simp only [List.mem_map, List.mem_range] at h1 h2
    obtain ⟨_, _, rfl⟩ := h1
    obtain ⟨_, _, h⟩ := h2
    simp only [Prod.mk.injEq] at h
    omega

/-- The cells a draw names: those whose space position lies in the clipped sprite at a set bit. -/
theorem mem_spriteCells {g : Geometry} {x0 y0 : Nat} {bit : Nat → Nat → Bool} (hs : 0 < g.scale) (cell : Nat × Nat) :
    cell ∈ spriteCells g x0 y0 bit ↔
      ∃ r < min g.spriteHeight (g.spaceHeight - y0), ∃ c < min g.spriteWidth (g.spaceWidth - x0),
        bit c r = true ∧ cell.1 / g.scale = x0 + c ∧ cell.2 / g.scale = y0 + r := by
  simp only [spriteCells, List.mem_flatMap, List.mem_range]
  constructor
  · rintro ⟨r, hr, c, hc, h⟩
    split at h
    · exact ⟨r, hr, c, hc, ‹_›, (mem_blockCells hs cell).1 h⟩
    · simp at h
  · rintro ⟨r, hr, c, hc, hb, h⟩
    exact ⟨r, hr, c, hc, by rw [if_pos hb]; exact (mem_blockCells hs cell).2 h⟩

/-- A draw names no cell twice: the blocks of different sprite pixels are apart. -/
theorem nodup_spriteCells {g : Geometry} {x0 y0 : Nat} {bit : Nat → Nat → Bool} (hs : 0 < g.scale) :
    (spriteCells g x0 y0 bit).Nodup := by
  unfold spriteCells
  rw [List.nodup_flatMap]
  constructor
  · intro r _
    rw [List.nodup_flatMap]
    constructor
    · intro c _
      split
      · exact nodup_blockCells _ _ _
      · exact List.nodup_nil
    · refine List.nodup_range.imp_of_mem fun {a b} _ _ hab => ?_
      simp only [Function.onFun]
      intro cell h1 h2
      split at h1
      · split at h2
        · rw [mem_blockCells hs] at h1 h2
          omega
        · exact absurd h2 List.not_mem_nil
      · exact absurd h1 List.not_mem_nil
  · refine List.nodup_range.imp_of_mem fun {a b} _ _ hab => ?_
    simp only [Function.onFun]
    intro cell h1 h2
    simp only [List.mem_flatMap] at h1 h2
    obtain ⟨c, -, h1⟩ := h1
    obtain ⟨e, -, h2⟩ := h2
    split at h1
    · split at h2
      · rw [mem_blockCells hs] at h1 h2
        omega
      · exact absurd h2 List.not_mem_nil
    · exact absurd h1 List.not_mem_nil

/-- The scale of every draw geometry is 1 or 2, and its space at that scale is the whole buffer. -/
theorem drawGeometry_space (ext : Bool) (n : Nibble) :
    0 < (drawGeometry ext n).scale ∧ 0 < (drawGeometry ext n).spaceWidth ∧ 0 < (drawGeometry ext n).spaceHeight ∧
      (drawGeometry ext n).spaceWidth * (drawGeometry ext n).scale = 128 ∧
      (drawGeometry ext n).spaceHeight * (drawGeometry ext n).scale = 64 := by
  unfold drawGeometry
  split
  · split <;> simp
  · simp

/-- The cells a DRW names lie inside the buffer and none is named twice. -/
theorem State.drawTargets_inside (s : State) (x y n : Nibble) :
    (s.drawTargets x y n).Nodup ∧ ∀ cell ∈ s.drawTargets x y n, cell.1 < 128 ∧ cell.2 < 64 := by
  obtain ⟨hs, hw, hh, hW, hH⟩ := drawGeometry_space s.ext n
  refine ⟨nodup_spriteCells hs, fun cell h => ?_⟩
  obtain ⟨r, hr, c, hc, -, h1, h2⟩ := (mem_spriteCells hs cell).1 h
  constructor
  · rw [← hW, ← Nat.div_lt_iff_lt_mul hs, h1]
    omega
  · rw [← hH, ← Nat.div_lt_iff_lt_mul hs, h2]
    omega

end Sys2Proof.Machine
end

