-- ==== Sys2Proof/Laws/Step.lean ====
section
/-! SUPPORT. What a cycle and a step can do, said once. -/

namespace Sys2Proof.Machine

variable {s t : State}

/-- A cycle that answers a state ran an instruction and advanced, or met an UNKNOWN word and advanced. -/
theorem cycle_cases (h : cycle s = .next t) :
    (∃ i u, s.decoded = .instr i ∧ exec i s = .next u ∧ t = u.setPc (u.pc + 2)) ∨
    (∃ r, s.decoded = .rejected r ∧ t = s.setPc (s.pc + 2)) := by
  unfold cycle at h
  split at h
  · rename_i i hi
    cases he : exec i s with
    | next u =>
      rw [he] at h
      exact .inl ⟨i, u, hi, he, (Host.Outcome.next.inj h).symm⟩
    | fault f => simp [he, advanceResult] at h
    | refused f => simp [he, advanceResult] at h
  · rename_i r hr
    exact .inr ⟨r, hr, (Host.Outcome.next.inj h).symm⟩

/-- A step that answers a state ended a frame tick or ran a cycle. -/
theorem step_cases (h : step s = .next t) :
    (∃ k rest, s.ticks = k :: rest ∧ k.cycles = 0 ∧ t = s.endTick k rest) ∨
    (s.tickDone = false ∧ cycle s.spendCycle = .next t) := by
  unfold step frameStep at h
  split at h
  · rename_i hn
    refine .inr ⟨by simp [State.tickDone, hn], ?_⟩
    rwa [show s.spendCycle = s by simp only [State.spendCycle, hn]; cases s; simp_all]
  · rename_i k rest hn
    split at h
    · exact .inl ⟨k, rest, hn, ‹_›, (Host.Outcome.next.inj h).symm⟩
    · exact .inr ⟨by simpa [State.tickDone, hn] using ‹_›, h⟩

/-- The cycle of a state whose word decodes to an instruction. -/
theorem cycle_of_instr {i : Instr} (h : s.decoded = .instr i) : cycle s = advanceResult (exec i s) := by
  simp only [cycle, h]

/-- Spending a cycle changes the tick list alone, so the word at PC is the same. -/
theorem decoded_spendCycle (s : State) : s.spendCycle.decoded = s.decoded := rfl

end Sys2Proof.Machine
end

