-- ==== Sys2Proof/Laws/Exec.lean ====
section
/-! SUPPORT. No instruction reads or writes the host's tick list, so execution and the cycle commute with changing it. -/

namespace Sys2Proof.Machine

/-- A result with another tick list. -/
def withTicks (q : List HostTick) (r : Result) : Result :=
  match r with
  | .next t => .next { t with ticks := q }
  | .fault f => .fault f
  | .refused f => .refused f

variable (s : State) (q : List HostTick)

/-- Memory writes commute with another tick list. -/
theorem State.memWriteBytes_withTicks (a : Addr) (bs : List Byte) :
    ({ s with ticks := q } : State).memWriteBytes a bs = { s.memWriteBytes a bs with ticks := q } := by
  induction bs generalizing s a with
  | nil => rfl
  | cons b rest ih => exact ih (s.memWrite a b) (a + 1)

/-- The key test does not read the tick list. -/
theorem State.pressed_withTicks : State.pressed { s with ticks := q } = s.pressed := rfl

/-- Execution commutes with another tick list. -/
theorem exec_withTicks (i : Instr) : exec i { s with ticks := q } = withTicks q (exec i s) := by
  cases i
  case ldB x => exact congrArg Host.Outcome.next (s.memWriteBytes_withTicks q _ _)
  case ldMemVx x =>
    exact congrArg (fun t => Host.Outcome.next (State.setI t (s.indexAfterBlock x))) (s.memWriteBytes_withTicks q _ _)
  case ret => simp only [exec, execRet]; split <;> rfl
  case call nnn => simp only [exec, execCall]; split <;> rfl
  case skp x =>
    simp only [exec, execSkp, State.pressed_withTicks, show State.getV { s with ticks := q } = s.getV from rfl]
    cases s.pressed (s.getV x) with
    | none => rfl
    | some b => cases b <;> rfl
  case sknp x =>
    simp only [exec, execSknp, State.pressed_withTicks, show State.getV { s with ticks := q } = s.getV from rfl]
    cases s.pressed (s.getV x) with
    | none => rfl
    | some b => cases b <;> rfl
  case ldVxK x =>
    simp only [exec, execLdVxK, show State.lowestKey { s with ticks := q } = s.lowestKey from rfl]
    cases s.lowestKey <;> rfl
  case seImm | sneImm | seReg | sneReg | scd | scr | scl =>
    simp [exec, execSeImm, execSneImm, execSeReg, execSneReg, execScd, execScr, execScl, withTicks, State.setPc,
      State.setDisp, State.getV, State.scrolls]
  all_goals rfl

/-- The cycle commutes with another tick list. -/
theorem cycle_withTicks : cycle { s with ticks := q } = withTicks q (cycle s) := by
  unfold cycle
  rw [show State.decoded { s with ticks := q } = s.decoded from rfl]
  split
  · rw [exec_withTicks]
    cases exec _ s <;> rfl
  · rfl

end Sys2Proof.Machine
end

