-- ==== Sys2Proof/Laws/Memory.lean ====
section
/-! SUPPORT. Memory: every operation keeps the canonical form, and what a read gives after a write. -/

namespace Sys2Proof.Machine

variable {p : Config.Params} {m : Memory} {s : State}

/-- The address one past `a`, k bytes on. -/
theorem addr_succ (a : Addr) (k : Nat) : a + BitVec.ofNat 12 (k + 1) = a + 1 + BitVec.ofNat 12 k := by
  apply BitVec.eq_of_toNat_eq
  have h1 : (1 : Addr).toNat = 1 := rfl
  simp only [BitVec.toNat_add, BitVec.toNat_ofNat, h1]
  omega

/-- The canonical form, as the two facts it says. -/
theorem Memory.wf_iff : Memory.wf p m = true ↔
    (m.Pairwise fun c d => c.1 < d.1) ∧ ∀ c ∈ m, c.1 < 4096 ∧ c.2 ≠ resetByte p c.1 := by
  simp [Memory.wf]

/-- The canonical form of a non-empty memory: its head lies below the rest, which is canonical. -/
theorem Memory.wf_cons {c : Nat} {x : Byte} : Memory.wf p ((c, x) :: m) = true ↔
    ((∀ d ∈ m, c < d.1) ∧ c < 4096 ∧ x ≠ resetByte p c) ∧ Memory.wf p m = true := by
  simp only [Memory.wf_iff, List.pairwise_cons, List.mem_cons, forall_eq_or_imp]
  tauto

/-- What a write lists: an old entry at another address, or the byte written. -/
theorem Memory.mem_write {a : Nat} {b : Byte} {c : Host.Cell} (h : c ∈ Memory.write p m a b) :
    c ∈ m ∨ (c = (a, b) ∧ b ≠ resetByte p a) := by
  induction m with
  | nil =>
    unfold Memory.write at h
    split at h <;> simp_all
  | cons d rest ih =>
    obtain ⟨e, x⟩ := d
    unfold Memory.write at h
    split at h
    · split at h <;> (simp_all; try tauto)
    · split at h
      · split at h <;> (simp_all; try tauto)
      · rcases List.mem_cons.1 h with h | h
        · simp [h]
        · rcases ih h with h | h <;> simp [h]

/-- A write below 4096 keeps the canonical form. -/
theorem Memory.write_wf {a : Nat} {b : Byte} (ha : a < 4096) (h : Memory.wf p m = true) :
    Memory.wf p (Memory.write p m a b) = true := by
  induction m with
  | nil =>
    unfold Memory.write
    split
    · exact h
    · simp_all [Memory.wf]
  | cons d rest ih =>
    obtain ⟨c, x⟩ := d
    obtain ⟨⟨hlow, hc, hx⟩, hrest⟩ := Memory.wf_cons.1 h
    unfold Memory.write
    split
    · split
      · exact h
      · refine Memory.wf_cons.2 ⟨⟨?_, ha, ‹_›⟩, h⟩
        intro d hd
        rcases List.mem_cons.1 hd with rfl | hd
        · assumption
        · have := hlow d hd; omega
    · split
      · split
        · exact hrest
        · refine Memory.wf_cons.2 ⟨⟨?_, ha, ‹_›⟩, hrest⟩
          intro d hd
          have := hlow d hd; omega
      · refine Memory.wf_cons.2 ⟨⟨?_, hc, hx⟩, ih hrest⟩
        intro d hd
        rcases Memory.mem_write hd with hd | ⟨rfl, -⟩
        · exact hlow d hd
        · show c < a
          omega

/-- An address no entry lists finds nothing. -/
theorem Memory.find_none {a : Nat} (h : ∀ c ∈ m, a ≠ c.1) : Memory.find m a = none := by
  induction m with
  | nil => rfl
  | cons d rest ih =>
    simp only [List.mem_cons, forall_eq_or_imp] at h
    obtain ⟨c, x⟩ := d
    simp only [Memory.find]
    rw [if_neg (fun e => h.1 e.symm), ih h.2]

/-- A write leaves every other address as it was, whatever the form of memory. -/
theorem Memory.find_write_of_ne {a c : Nat} {b : Byte} (hne : c ≠ a) :
    Memory.find (Memory.write p m a b) c = Memory.find m c := by
  induction m with
  | nil =>
    unfold Memory.write
    split
    · rfl
    · simp [Memory.find, hne.symm]
  | cons d rest ih =>
    obtain ⟨e, x⟩ := d
    unfold Memory.write
    split
    · split
      · rfl
      · simp [Memory.find, hne.symm]
    · split
      · rename_i h
        subst h
        split <;> simp [Memory.find, hne.symm]
      · simp [Memory.find, ih]

/-- In the canonical form, a read of the address written gives the byte written. -/
theorem Memory.read_write_same {a : Nat} {b : Byte} (h : Memory.wf p m = true) :
    Memory.read p (Memory.write p m a b) a = b := by
  unfold Memory.read
  induction m with
  | nil =>
    unfold Memory.write
    split <;> simp_all [Memory.find]
  | cons d rest ih =>
    obtain ⟨c, x⟩ := d
    obtain ⟨⟨hlow, hc, hx⟩, hrest⟩ := Memory.wf_cons.1 h
    unfold Memory.write
    split
    · split
      · rw [Memory.find_none]
        · simp_all
        · intro d hd
          rcases List.mem_cons.1 hd with rfl | hd
          · show a ≠ c
            omega
          · have := hlow d hd; omega
      · simp [Memory.find]
    · split
      · rename_i heq
        subst heq
        split
        · rw [Memory.find_none (fun d hd => by have := hlow d hd; omega)]
          simp_all
        · simp [Memory.find]
      · rename_i hne
        simp only [Memory.find, if_neg (fun e : c = a => hne e.symm)]
        exact ih hrest

/-- A read after a write, at every address. -/
theorem State.memRead_memWrite (h : Memory.wf s.params s.mem = true) (a c : Addr) (b : Byte) :
    (s.memWrite a b).memRead c = if c = a then b else s.memRead c := by
  simp only [State.memRead, State.memWrite_mem, State.memWrite_params]
  split
  · rename_i hc
    rw [hc, Memory.read_write_same h]
  · rename_i hc
    unfold Memory.read
    rw [Memory.find_write_of_ne (fun e => hc (BitVec.eq_of_toNat_eq e))]

/-- A write leaves every other address as it was, whatever the form of memory. -/
theorem State.memRead_memWrite_of_ne {a c : Addr} (b : Byte) (hc : c ≠ a) :
    (s.memWrite a b).memRead c = s.memRead c := by
  simp only [State.memRead, Memory.read, State.memWrite_mem, State.memWrite_params]
  rw [Memory.find_write_of_ne (fun e => hc (BitVec.eq_of_toNat_eq e))]

/-- A byte write keeps the canonical form. -/
theorem State.memWrite_wf (h : Memory.wf s.params s.mem = true) (a : Addr) (b : Byte) :
    Memory.wf (s.memWrite a b).params (s.memWrite a b).mem = true :=
  Memory.write_wf a.isLt h

/-- A run of byte writes keeps the canonical form. -/
theorem State.memWriteBytes_wf (h : Memory.wf s.params s.mem = true) (a : Addr) (bs : List Byte) :
    Memory.wf (s.memWriteBytes a bs).params (s.memWriteBytes a bs).mem = true := by
  induction bs generalizing s a with
  | nil => exact h
  | cons b rest ih => exact ih (State.memWrite_wf h a b) (a + 1)

/-- A run of byte writes leaves every address it does not reach as it was. -/
theorem State.memRead_memWriteBytes_of_ne {a c : Addr} {bs : List Byte}
    (hc : ∀ k < bs.length, c ≠ a + BitVec.ofNat 12 k) : (s.memWriteBytes a bs).memRead c = s.memRead c := by
  induction bs generalizing s a with
  | nil => rfl
  | cons b rest ih =>
    have h0 : c ≠ a := by simpa using hc 0 (by simp)
    rw [State.memWriteBytes, ih, State.memRead_memWrite_of_ne b h0]
    intro k hk
    have := hc (k + 1) (by simpa using hk)
    rwa [← addr_succ]

/-- A run of at most 4096 byte writes puts its k-th byte at the k-th address from its start, modulo 4096. -/
theorem State.memRead_memWriteBytes (h : Memory.wf s.params s.mem = true) {a : Addr} {bs : List Byte}
    (hlen : bs.length ≤ 4096) {k : Nat} (hk : k < bs.length) :
    (s.memWriteBytes a bs).memRead (a + BitVec.ofNat 12 k) = bs[k] := by
  induction bs generalizing s a k with
  | nil => simp at hk
  | cons b rest ih =>
    have hrest : rest.length < 4096 := by simpa using hlen
    rw [State.memWriteBytes]
    cases k with
    | zero =>
      rw [State.memRead_memWriteBytes_of_ne, State.memRead_memWrite h]
      · simp
      · intro j hj
        have : (BitVec.ofNat 12 0 : Addr) ≠ 1 + BitVec.ofNat 12 j := by
          intro e
          have := congrArg BitVec.toNat e
          simp [BitVec.toNat_add] at this
          omega
        intro e
        apply this
        rw [BitVec.add_assoc] at e
        exact (BitVec.add_right_inj a).1 e
    | succ k =>
      have hk' : k < rest.length := by simpa using hk
      rw [addr_succ]
      simpa using ih (State.memWrite_wf h a b) (by omega) hk'

end Sys2Proof.Machine
end

