-- ==== Sys2Proof/Laws/PerInstr.lean ====
section
/-! SUPPORT. Per-instruction statements: the encoded instruction is a word of the row of the opcode map
(`30_encoding.md` R112) that the instruction stands for, under every value of the decode parameters. -/

namespace Sys2Proof.Laws.MapRow

/-- The word of an instruction matches its row of the opcode map. -/
def Statement (i : Instr) : Prop :=
  ∃ r ∈ opcodeMap, r.number = i.rowNumber ∧ ∀ p, rowMatches p (encode i) r = true

/-- The word of an instruction matches a row whose fixed digits are the word's nibbles and whose ignored nibble, if it
has one, is 0 in the word. -/
theorem of_row {i : Instr} (r : OpcodeRow) (hr : r ∈ opcodeMap) (hn : r.number = i.rowNumber)
    (h : ∀ p, rowMatches p (encode i) r = true) : Statement i := ⟨r, hr, hn, h⟩

theorem cls : Statement .cls :=
  of_row ⟨1, .digit 0x0, .ignoredByGroup0, .digit 0xE, .digit 0x0⟩ (by decide) rfl fun p => by
    simp [rowMatches, nibbleFits, encode_cls]

theorem ret : Statement .ret :=
  of_row ⟨2, .digit 0x0, .ignoredByGroup0, .digit 0xE, .digit 0xE⟩ (by decide) rfl fun p => by
    simp [rowMatches, nibbleFits, encode_ret]

theorem exit : Statement .exit :=
  of_row ⟨3, .digit 0x0, .ignoredByGroup0, .digit 0xF, .digit 0xD⟩ (by decide) rfl fun p => by
    simp [rowMatches, nibbleFits, encode_exit]

theorem high : Statement .high :=
  of_row ⟨4, .digit 0x0, .ignoredByGroup0, .digit 0xF, .digit 0xF⟩ (by decide) rfl fun p => by
    simp [rowMatches, nibbleFits, encode_high]

theorem low : Statement .low :=
  of_row ⟨5, .digit 0x0, .ignoredByGroup0, .digit 0xF, .digit 0xE⟩ (by decide) rfl fun p => by
    simp [rowMatches, nibbleFits, encode_low]

theorem scd (n : Nibble) : Statement (.scd n) :=
  of_row ⟨6, .digit 0x0, .ignoredByGroup0, .digit 0xC, .operand⟩ (by decide) rfl fun p => by
    simp [rowMatches, nibbleFits, encode]

theorem scr : Statement .scr :=
  of_row ⟨7, .digit 0x0, .ignoredByGroup0, .digit 0xF, .digit 0xB⟩ (by decide) rfl fun p => by
    simp [rowMatches, nibbleFits, encode_scr]

theorem scl : Statement .scl :=
  of_row ⟨8, .digit 0x0, .ignoredByGroup0, .digit 0xF, .digit 0xC⟩ (by decide) rfl fun p => by
    simp [rowMatches, nibbleFits, encode_scl]

theorem jp (nnn : Addr) : Statement (.jp nnn) :=
  of_row ⟨9, .digit 0x1, .operand, .operand, .operand⟩ (by decide) rfl fun p => by
    simp [rowMatches, nibbleFits, encode]

theorem call (nnn : Addr) : Statement (.call nnn) :=
  of_row ⟨10, .digit 0x2, .operand, .operand, .operand⟩ (by decide) rfl fun p => by
    simp [rowMatches, nibbleFits, encode]

theorem seImm (x : Nibble) (nn : Byte) : Statement (.seImm x nn) :=
  of_row ⟨11, .digit 0x3, .operand, .operand, .operand⟩ (by decide) rfl fun p => by
    simp [rowMatches, nibbleFits, encode]

theorem sneImm (x : Nibble) (nn : Byte) : Statement (.sneImm x nn) :=
  of_row ⟨12, .digit 0x4, .operand, .operand, .operand⟩ (by decide) rfl fun p => by
    simp [rowMatches, nibbleFits, encode]

theorem seReg (x : Nibble) (y : Nibble) : Statement (.seReg x y) :=
  of_row ⟨13, .digit 0x5, .operand, .operand, .ignoredByGroups59⟩ (by decide) rfl fun p => by
    simp [rowMatches, nibbleFits, encode]

theorem sneReg (x : Nibble) (y : Nibble) : Statement (.sneReg x y) :=
  of_row ⟨14, .digit 0x9, .operand, .operand, .ignoredByGroups59⟩ (by decide) rfl fun p => by
    simp [rowMatches, nibbleFits, encode]

theorem ldImm (x : Nibble) (nn : Byte) : Statement (.ldImm x nn) :=
  of_row ⟨15, .digit 0x6, .operand, .operand, .operand⟩ (by decide) rfl fun p => by
    simp [rowMatches, nibbleFits, encode]

theorem addImm (x : Nibble) (nn : Byte) : Statement (.addImm x nn) :=
  of_row ⟨16, .digit 0x7, .operand, .operand, .operand⟩ (by decide) rfl fun p => by
    simp [rowMatches, nibbleFits, encode]

theorem ldReg (x : Nibble) (y : Nibble) : Statement (.ldReg x y) :=
  of_row ⟨17, .digit 0x8, .operand, .operand, .digit 0x0⟩ (by decide) rfl fun p => by
    simp [rowMatches, nibbleFits, encode]

theorem orReg (x : Nibble) (y : Nibble) : Statement (.orReg x y) :=
  of_row ⟨18, .digit 0x8, .operand, .operand, .digit 0x1⟩ (by decide) rfl fun p => by
    simp [rowMatches, nibbleFits, encode]

theorem andReg (x : Nibble) (y : Nibble) : Statement (.andReg x y) :=
  of_row ⟨19, .digit 0x8, .operand, .operand, .digit 0x2⟩ (by decide) rfl fun p => by
    simp [rowMatches, nibbleFits, encode]

theorem xorReg (x : Nibble) (y : Nibble) : Statement (.xorReg x y) :=
  of_row ⟨20, .digit 0x8, .operand, .operand, .digit 0x3⟩ (by decide) rfl fun p => by
    simp [rowMatches, nibbleFits, encode]

theorem addReg (x : Nibble) (y : Nibble) : Statement (.addReg x y) :=
  of_row ⟨21, .digit 0x8, .operand, .operand, .digit 0x4⟩ (by decide) rfl fun p => by
    simp [rowMatches, nibbleFits, encode]

theorem sub (x : Nibble) (y : Nibble) : Statement (.sub x y) :=
  of_row ⟨22, .digit 0x8, .operand, .operand, .digit 0x5⟩ (by decide) rfl fun p => by
    simp [rowMatches, nibbleFits, encode]

theorem shr (x : Nibble) (y : Nibble) : Statement (.shr x y) :=
  of_row ⟨23, .digit 0x8, .operand, .operand, .digit 0x6⟩ (by decide) rfl fun p => by
    simp [rowMatches, nibbleFits, encode]

theorem subn (x : Nibble) (y : Nibble) : Statement (.subn x y) :=
  of_row ⟨24, .digit 0x8, .operand, .operand, .digit 0x7⟩ (by decide) rfl fun p => by
    simp [rowMatches, nibbleFits, encode]

theorem shl (x : Nibble) (y : Nibble) : Statement (.shl x y) :=
  of_row ⟨25, .digit 0x8, .operand, .operand, .digit 0xE⟩ (by decide) rfl fun p => by
    simp [rowMatches, nibbleFits, encode]

theorem ldI (nnn : Addr) : Statement (.ldI nnn) :=
  of_row ⟨26, .digit 0xA, .operand, .operand, .operand⟩ (by decide) rfl fun p => by
    simp [rowMatches, nibbleFits, encode]

theorem jpV0 (nnn : Addr) : Statement (.jpV0 nnn) :=
  of_row ⟨27, .digit 0xB, .operand, .operand, .operand⟩ (by decide) rfl fun p => by
    simp [rowMatches, nibbleFits, encode]

theorem rnd (x : Nibble) (nn : Byte) : Statement (.rnd x nn) :=
  of_row ⟨28, .digit 0xC, .operand, .operand, .operand⟩ (by decide) rfl fun p => by
    simp [rowMatches, nibbleFits, encode]

theorem drw (x : Nibble) (y : Nibble) (n : Nibble) : Statement (.drw x y n) :=
  of_row ⟨29, .digit 0xD, .operand, .operand, .operand⟩ (by decide) rfl fun p => by
    simp [rowMatches, nibbleFits, encode]

theorem skp (x : Nibble) : Statement (.skp x) :=
  of_row ⟨30, .digit 0xE, .operand, .digit 0x9, .digit 0xE⟩ (by decide) rfl fun p => by
    simp [rowMatches, nibbleFits, encode]

theorem sknp (x : Nibble) : Statement (.sknp x) :=
  of_row ⟨31, .digit 0xE, .operand, .digit 0xA, .digit 0x1⟩ (by decide) rfl fun p => by
    simp [rowMatches, nibbleFits, encode]

theorem ldVxDt (x : Nibble) : Statement (.ldVxDt x) :=
  of_row ⟨32, .digit 0xF, .operand, .digit 0x0, .digit 0x7⟩ (by decide) rfl fun p => by
    simp [rowMatches, nibbleFits, encode]

theorem ldVxK (x : Nibble) : Statement (.ldVxK x) :=
  of_row ⟨33, .digit 0xF, .operand, .digit 0x0, .digit 0xA⟩ (by decide) rfl fun p => by
    simp [rowMatches, nibbleFits, encode]

theorem ldDtVx (x : Nibble) : Statement (.ldDtVx x) :=
  of_row ⟨34, .digit 0xF, .operand, .digit 0x1, .digit 0x5⟩ (by decide) rfl fun p => by
    simp [rowMatches, nibbleFits, encode]

theorem ldStVx (x : Nibble) : Statement (.ldStVx x) :=
  of_row ⟨35, .digit 0xF, .operand, .digit 0x1, .digit 0x8⟩ (by decide) rfl fun p => by
    simp [rowMatches, nibbleFits, encode]

theorem addI (x : Nibble) : Statement (.addI x) :=
  of_row ⟨36, .digit 0xF, .operand, .digit 0x1, .digit 0xE⟩ (by decide) rfl fun p => by
    simp [rowMatches, nibbleFits, encode]

theorem ldF (x : Nibble) : Statement (.ldF x) :=
  of_row ⟨37, .digit 0xF, .operand, .digit 0x2, .digit 0x9⟩ (by decide) rfl fun p => by
    simp [rowMatches, nibbleFits, encode]

theorem ldB (x : Nibble) : Statement (.ldB x) :=
  of_row ⟨38, .digit 0xF, .operand, .digit 0x3, .digit 0x3⟩ (by decide) rfl fun p => by
    simp [rowMatches, nibbleFits, encode]

theorem ldMemVx (x : Nibble) : Statement (.ldMemVx x) :=
  of_row ⟨39, .digit 0xF, .operand, .digit 0x5, .digit 0x5⟩ (by decide) rfl fun p => by
    simp [rowMatches, nibbleFits, encode]

theorem ldVxMem (x : Nibble) : Statement (.ldVxMem x) :=
  of_row ⟨40, .digit 0xF, .operand, .digit 0x6, .digit 0x5⟩ (by decide) rfl fun p => by
    simp [rowMatches, nibbleFits, encode]

end Sys2Proof.Laws.MapRow
end

