-- ==== Sys2Proof/Tests/Slice0.lean ====
section
/-! SUPPORT. Tests: the well-formedness smoke, decoding of words written out from `30_encoding.md` R112, one step per
instruction from the worked examples of the rules and the vectors of `95_test_vectors.md`, and a witness for every statement
with hypotheses. Expected results are the spec's. -/

namespace Sys2Proof.Tests

open Sys2Proof.Machine

/-! ## Helpers -/

/-- A check of the state a result answers. -/
def onNext (r : Result) (f : State → Bool) : Bool :=
  match r with
  | .next t => f t
  | .fault _ => false
  | .refused _ => false

/-- The state after construction with some V registers set. -/
def withV (l : List (Nibble × Byte)) : State := l.foldl (fun s xb => s.setV xb.1 xb.2) State.reset

/-- A word placed at PC. -/
def State.holding (s : State) (w : Word) : State := s.memWriteBytes s.pc (bytesOfWord w)

/-- The cycle of a word placed at PC. -/
def cycleOf (w : Word) (s : State) : Result := cycle (State.holding s w)

/-- A buffer with some cells lit. -/
def lit (cells : List (Nat × Nat)) : Display := cells.foldl (fun d c => Display.toggle d c.1 c.2) blankDisplay

/-- Keys pressed. -/
def pressing (l : List Nat) : Keys := l.foldl (fun k j => k.setIfInBounds j true) (Vector.replicate 16 false)

/-! ## Well-formedness smoke: an out-of-range operand for each check -/

theorem test_register_16_refused : isRegister 16 = false ∧ isRegister 15 = true := by decide
theorem test_n_16_refused : isN 16 = false ∧ isN 0 = true := by decide
theorem test_nn_256_refused : isNn 256 = false ∧ isNn 255 = true := by decide
theorem test_nnn_4096_refused : isNnn 4096 = false ∧ isNnn 4095 = true := by decide
theorem test_drw_wellFormed : (Instr.drw 0xF 0xF 0xF).wellFormed = true := by decide

/-! ## Decoding: words written out bit by bit from the patterns of R112 -/

theorem test_decode_group0 :
    decode defaultParams 0b0000000011100000 = .instr .cls ∧ decode defaultParams 0b0000000011101110 = .instr .ret ∧
    decode defaultParams 0b0000000011111101 = .instr .exit ∧ decode defaultParams 0b0000000011111111 = .instr .high ∧
    decode defaultParams 0b0000000011111110 = .instr .low ∧ decode defaultParams 0b0000000011000011 = .instr (.scd 3) ∧
    decode defaultParams 0b0000000011111011 = .instr .scr ∧ decode defaultParams 0b0000000011111100 = .instr .scl := by
  decide
theorem test_decode_flow :
    decode defaultParams 0b0001101010111100 = .instr (.jp 0xABC) ∧
    decode defaultParams 0b0010001100000000 = .instr (.call 0x300) ∧
    decode defaultParams 0b0011001101000010 = .instr (.seImm 3 0x42) ∧
    decode defaultParams 0b0100001101000010 = .instr (.sneImm 3 0x42) ∧
    decode defaultParams 0b0101000100100000 = .instr (.seReg 1 2) ∧
    decode defaultParams 0b1001000100100000 = .instr (.sneReg 1 2) := by
  decide
theorem test_decode_immediate :
    decode defaultParams 0b0110101000101111 = .instr (.ldImm 0xA 0x2F) ∧
    decode defaultParams 0b0111010100000010 = .instr (.addImm 5 0x02) := by
  decide
theorem test_decode_group8 :
    decode defaultParams 0b1000000100100000 = .instr (.ldReg 1 2) ∧
    decode defaultParams 0b1000000100100001 = .instr (.orReg 1 2) ∧
    decode defaultParams 0b1000000100100010 = .instr (.andReg 1 2) ∧
    decode defaultParams 0b1000000100100011 = .instr (.xorReg 1 2) ∧
    decode defaultParams 0b1000000100100100 = .instr (.addReg 1 2) ∧
    decode defaultParams 0b1000000100100101 = .instr (.sub 1 2) ∧
    decode defaultParams 0b1000000100100110 = .instr (.shr 1 2) ∧
    decode defaultParams 0b1000000100100111 = .instr (.subn 1 2) ∧
    decode defaultParams 0b1000000100101110 = .instr (.shl 1 2) := by
  decide
theorem test_decode_index_draw_keys :
    decode defaultParams 0b1010000100100011 = .instr (.ldI 0x123) ∧
    decode defaultParams 0b1011001100000000 = .instr (.jpV0 0x300) ∧
    decode defaultParams 0b1100000100001111 = .instr (.rnd 1 0x0F) ∧
    decode defaultParams 0b1101000000010101 = .instr (.drw 0 1 5) ∧
    decode defaultParams 0b1110000110011110 = .instr (.skp 1) ∧
    decode defaultParams 0b1110000110100001 = .instr (.sknp 1) := by
  decide
theorem test_decode_groupF :
    decode defaultParams 0b1111001100000111 = .instr (.ldVxDt 3) ∧
    decode defaultParams 0b1111010100001010 = .instr (.ldVxK 5) ∧
    decode defaultParams 0b1111001000010101 = .instr (.ldDtVx 2) ∧
    decode defaultParams 0b1111001000011000 = .instr (.ldStVx 2) ∧
    decode defaultParams 0b1111000100011110 = .instr (.addI 1) ∧
    decode defaultParams 0b1111010000101001 = .instr (.ldF 4) ∧
    decode defaultParams 0b1111000100110011 = .instr (.ldB 1) ∧
    decode defaultParams 0b1111001001010101 = .instr (.ldMemVx 2) ∧
    decode defaultParams 0b1111000101100101 = .instr (.ldVxMem 1) := by
  decide
/-- DE2 and DE7 under the alternative decode parameters. -/
theorem test_decode_alternatives :
    decode { defaultParams with group0Match := .fullWord } 0x01E0 = .rejected (.unknown 0x01E0) ∧
    decode { defaultParams with strict59 := true } 0x5121 = .rejected (.unknown 0x5121) := by
  decide
theorem test_decode_one_byte : decodeBytes defaultParams [0x00] = (.rejected .truncated, [0x00]) := by decide
theorem test_decodeTableWord : decodeTableWord 16 0x8124 = some (.addReg 1 2) ∧ decodeTableWord 16 0x8128 = none := by
  decide

/-! ## The step and the ports -/

/-- R44, R54: the word placed at reset runs first. -/
theorem test_placed_word_runs :
    onNext (step (State.reset.withFetchWord 16 0x6A2F)) (fun t => t.getV 0xA == 0x2F && t.pc == 0x202) = true := by
  decide
/-- DE3: UNKNOWN is a no-op with PC + 2. -/
theorem test_unknown_is_noop : onNext (cycleOf 0x0000 State.reset) (fun t => t.pc == 0x202) = true := by decide
/-- W12, T3, T4: the sound timer goes 1, 0, 0 under `advance(0)`. -/
theorem test_timer_floor :
    onNext (advance 0 { State.reset with st := 1 }) (fun t => t.st == 0 && !t.sound) = true ∧
    onNext (advance 0 State.reset) (fun t => t.st == 0) = true := by
  decide
/-- R380, R392: the end of a tick steps the timers and lets the host set the keys. -/
theorem test_tick_end :
    onNext (step { State.reset with dt := 5, ticks := [⟨0, pressing [9]⟩] })
      (fun t => t.dt == 4 && t.keyDown 9 && t.ticks.isEmpty && t.pc == 0x200) = true := by
  decide
/-- R391: a ROM byte at 0x200; the font below is as construction left it. -/
theorem test_rom_load :
    (State.reset.romLoad [0x12, 0x34]).memRead 0x201 = 0x34 ∧ (State.reset.romLoad [0x12, 0x34]).memRead 0x050 = 0xFF := by
  decide
/-- R396: the two diagnostics. -/
theorem test_diagnostics :
    (State.holding State.reset 0xF130).diagnostic = some (.unknownOpcode 0xF130) ∧
    (State.holding { State.reset with sp := 15 } 0x2300).diagnostic = some .stackOverflow := by
  decide

/-! ## System, mode and scroll -/

/-- S1. -/
theorem test_cls :
    onNext (cycleOf 0x00E0 { State.reset with disp := lit [(3, 3), (127, 63)] })
      (fun t => t.disp == blankDisplay && t.pc == 0x202) = true := by
  decide
/-- S2: the slot keeps its value. -/
theorem test_ret :
    onNext (cycleOf 0x00EE { State.reset with sp := 0, stack := State.reset.stack.set 0 0x204, pc := 0x400 })
      (fun t => t.sp == -1 && t.pc == 0x204 && t.slot 0 == 0x204) = true := by
  decide
/-- S3. -/
theorem test_ret_empty :
    onNext (cycleOf 0x00EE { State.reset with pc := 0x300 }) (fun t => t.sp == -1 && t.pc == 0x302) = true := by
  decide
/-- S4 and S5. -/
theorem test_exit :
    onNext (cycleOf 0x00FD { State.reset with pc := 0x250 }) (fun t => t.pc == 0x250) = true ∧
    onNext (cycleOf 0x00FD { State.reset with pc := 0x000 }) (fun t => t.pc == 0x000) = true := by
  decide
/-- S6. -/
theorem test_high :
    onNext (cycleOf 0x00FF { State.reset with disp := lit [(3, 3)] })
      (fun t => t.ext && Display.pixel t.disp 3 3) = true := by
  decide
/-- S7. -/
theorem test_low : onNext (cycleOf 0x00FE { State.reset with ext := true }) (fun t => !t.ext) = true := by decide
/-- S8. -/
theorem test_scd :
    onNext (cycleOf 0x00C3 { State.reset with ext := true, disp := lit [(5, 0)] })
      (fun t => t.disp == lit [(5, 3)]) = true := by
  decide
/-- S9 and S12 under `noop`. -/
theorem test_scd_edge :
    onNext (cycleOf 0x00C3 { State.reset with ext := true, disp := lit [(5, 62)] })
      (fun t => t.disp == blankDisplay) = true ∧
    onNext (cycleOf 0x00C1 { State.reset with
        disp := lit [(0, 0)], params := { defaultParams with scrollLowres := .noop } })
      (fun t => t.disp == lit [(0, 0)]) = true := by
  decide
/-- S10. -/
theorem test_scr :
    onNext (cycleOf 0x00FB { State.reset with ext := true, disp := lit [(126, 10), (0, 0)] })
      (fun t => t.disp == lit [(4, 0)]) = true := by
  decide
/-- S11. -/
theorem test_scl :
    onNext (cycleOf 0x00FC { State.reset with ext := true, disp := lit [(2, 7), (10, 7)] })
      (fun t => t.disp == lit [(6, 7)]) = true := by
  decide

/-! ## Jump, call, skip -/

/-- J1 and J2. -/
theorem test_jp :
    onNext (cycleOf 0x1ABC State.reset) (fun t => t.pc == 0xABC) = true ∧
    onNext (cycleOf 0x1000 State.reset) (fun t => t.pc == 0x000) = true := by
  decide
/-- J4 and J5. -/
theorem test_call :
    onNext (cycleOf 0x2300 State.reset) (fun t => t.sp == 0 && t.slot 0 == 0x202 && t.pc == 0x300) = true ∧
    onNext (cycleOf 0x2300 { State.reset with pc := 0xFFE }) (fun t => t.slot 0 == 0x000 && t.pc == 0x300) = true := by
  decide
/-- J6: overflow. -/
theorem test_call_overflow :
    onNext (cycleOf 0x2300 { State.reset with sp := 15 }) (fun t => t.sp == 15 && t.pc == 0x202) = true := by
  decide
/-- J7 and J8. -/
theorem test_seImm :
    onNext (cycleOf 0x3342 (withV [(3, 0x42)])) (fun t => t.pc == 0x204) = true ∧
    onNext (cycleOf 0x3343 (withV [(3, 0x42)])) (fun t => t.pc == 0x202) = true := by
  decide
/-- J15: a taken skip wraps. -/
theorem test_skip_wraps :
    onNext (cycleOf 0x3000 { State.reset with pc := 0xFFE }) (fun t => t.pc == 0x002) = true := by
  decide
/-- J9 and J10. -/
theorem test_sneImm :
    onNext (cycleOf 0x4342 (withV [(3, 0x42)])) (fun t => t.pc == 0x202) = true ∧
    onNext (cycleOf 0x4300 (withV [(3, 0x42)])) (fun t => t.pc == 0x204) = true := by
  decide
/-- J11 and J12. -/
theorem test_seReg :
    onNext (cycleOf 0x5120 (withV [(1, 7), (2, 7)])) (fun t => t.pc == 0x204) = true ∧
    onNext (cycleOf 0x5120 (withV [(1, 7), (2, 8)])) (fun t => t.pc == 0x202) = true := by
  decide
/-- J13 and J14. -/
theorem test_sneReg :
    onNext (cycleOf 0x9120 (withV [(1, 7), (2, 8)])) (fun t => t.pc == 0x204) = true ∧
    onNext (cycleOf 0x9110 (withV [(1, 7)])) (fun t => t.pc == 0x202) = true := by
  decide

/-! ## Register arithmetic and logic -/

/-- R211. -/
theorem test_ldImm : onNext (cycleOf 0x6A2F State.reset) (fun t => t.getV 0xA == 0x2F) = true := by decide
/-- A27: no carry. -/
theorem test_addImm :
    onNext (cycleOf 0x7502 (withV [(5, 0xFF), (0xF, 0x5A)])) (fun t => t.getV 5 == 0x01 && t.getV 0xF == 0x5A) = true := by
  decide
/-- R213. -/
theorem test_ldReg : onNext (cycleOf 0x8120 (withV [(2, 9)])) (fun t => t.getV 1 == 9) = true := by decide
/-- A26: OR leaves VF. -/
theorem test_or :
    onNext (cycleOf 0x8121 (withV [(1, 1), (2, 2), (0xF, 0x5A)])) (fun t => t.getV 1 == 3 && t.getV 0xF == 0x5A) = true := by
  decide
/-- R215. -/
theorem test_and :
    onNext (cycleOf 0x8122 (withV [(1, 0xF3), (2, 0x3F)])) (fun t => t.getV 1 == 0x33) = true := by
  decide
/-- R216 and A28. -/
theorem test_xor :
    onNext (cycleOf 0x8123 (withV [(1, 0xFF), (2, 0x0F)])) (fun t => t.getV 1 == 0xF0) = true ∧
    onNext (cycleOf 0x8113 (withV [(1, 0x0F)])) (fun t => t.getV 1 == 0x00) = true := by
  decide
/-- A1 (W8) and A3. -/
theorem test_addReg :
    onNext (cycleOf 0x8124 (withV [(1, 0xFF), (2, 0x01)])) (fun t => t.getV 1 == 0 && t.getV 0xF == 1) = true ∧
    onNext (cycleOf 0x8124 (withV [(1, 0x7F), (2, 0x80)])) (fun t => t.getV 1 == 0xFF && t.getV 0xF == 0) = true := by
  decide
/-- A21 and A25: VF as destination and as source. -/
theorem test_addReg_vf :
    onNext (cycleOf 0x8F14 (withV [(0xF, 0xFF), (1, 0x01)])) (fun t => t.getV 0xF == 1) = true ∧
    onNext (cycleOf 0x81F4 (withV [(0xF, 0xFF), (1, 0x01)])) (fun t => t.getV 1 == 0 && t.getV 0xF == 1) = true := by
  decide
/-- A5 and A6. -/
theorem test_sub :
    onNext (cycleOf 0x8125 (withV [(1, 5), (2, 5)])) (fun t => t.getV 1 == 0 && t.getV 0xF == 1) = true ∧
    onNext (cycleOf 0x8125 (withV [(1, 1), (2, 2)])) (fun t => t.getV 1 == 0xFF && t.getV 0xF == 0) = true := by
  decide
/-- A9 (W9, C3) and A12. -/
theorem test_subn :
    onNext (cycleOf 0x8127 (withV [(1, 1), (2, 2)])) (fun t => t.getV 1 == 1 && t.getV 0xF == 1) = true ∧
    onNext (cycleOf 0x8127 (withV [(1, 0xFF)])) (fun t => t.getV 1 == 1 && t.getV 0xF == 0) = true := by
  decide
/-- A14 and A23. -/
theorem test_shr :
    onNext (cycleOf 0x8106 (withV [(1, 0xFF)])) (fun t => t.getV 1 == 0x7F && t.getV 0xF == 1) = true ∧
    onNext (cycleOf 0x8F06 (withV [(0xF, 0x02)])) (fun t => t.getV 0xF == 0) = true := by
  decide
/-- A17 and R219's alternative source. -/
theorem test_shl_and_source :
    onNext (cycleOf 0x810E (withV [(1, 0x80)])) (fun t => t.getV 1 == 0 && t.getV 0xF == 1) = true ∧
    onNext (cycleOf 0x812E { withV [(2, 0x41)] with params := { defaultParams with shiftSource := .vy } })
      (fun t => t.getV 1 == 0x82 && t.getV 0xF == 0) = true := by
  decide

/-! ## Index, jump, random -/

/-- X1. -/
theorem test_ldI : onNext (cycleOf 0xA123 State.reset) (fun t => t.i == 0x123) = true := by decide
/-- X4: wraps, no flag. -/
theorem test_addI :
    onNext (cycleOf 0xF11E { withV [(1, 2), (0xF, 7)] with i := 0xFFF }) (fun t => t.i == 0x001 && t.getV 0xF == 7) = true := by
  decide
/-- X6 and X9. -/
theorem test_ldF :
    onNext (cycleOf 0xF429 (withV [(4, 0xA)])) (fun t => t.i == 0x032) = true ∧
    onNext (cycleOf 0xF129 { withV [(1, 0xFF)] with ext := true }) (fun t => t.i == 0xA46) = true := by
  decide
/-- J18 and J19. -/
theorem test_jpV0 :
    onNext (cycleOf 0xBFFF (withV [(0, 0x02)])) (fun t => t.pc == 0x001) = true ∧
    onNext (cycleOf 0xBFFF (withV [(0, 0xFF)])) (fun t => t.pc == 0x0FE) = true := by
  decide
/-- X3: a byte is consumed although the mask is 0. -/
theorem test_rnd :
    onNext (cycleOf 0xC100 State.reset) (fun t => t.draws == 1 && t.pc == 0x202) = true := by
  decide

/-! ## Draw -/

/-- DR1 (W6): 16 cells, px 120..127 x py 0..1. -/
theorem test_drw_clips :
    onNext (cycleOf 0xD011 { (withV [(0, 60)]).memWrite 0x300 0xFF with i := 0x300 })
      (fun t => t.getV 0xF == 0 && (List.range 128).all fun px =>
        Display.pixel t.disp px 0 == decide (120 ≤ px) && Display.pixel t.disp px 1 == decide (120 ≤ px) &&
          !Display.pixel t.disp px 2) = true := by
  decide
/-- DR9: VF as a coordinate is read before it is written. -/
theorem test_drw_vf_coordinate :
    onNext (cycleOf 0xDF11 { (withV [(0xF, 5)]).memWrite 0x300 0x80 with i := 0x300 })
      (fun t => t.disp == lit [(10, 0), (10, 1), (11, 0), (11, 1)] && t.getV 0xF == 0) = true := by
  decide
/-- DR8: one lit cell of a block is a collision, the others are set. -/
theorem test_drw_collision :
    onNext (cycleOf 0xD221 { State.reset.memWrite 0x300 0x80 with i := 0x300, disp := lit [(0, 0)] })
      (fun t => t.disp == lit [(1, 0), (0, 1), (1, 1)] && t.getV 0xF == 1) = true := by
  decide
/-- DR11: the left byte of a big-sprite row is first. -/
theorem test_drw_big :
    onNext (cycleOf 0xD220 { (State.reset.memWrite 0x300 0x80).memWrite 0x301 0x01 with i := 0x300, ext := true })
      (fun t => t.disp == lit [(0, 0), (15, 0)]) = true := by
  decide

/-! ## Keys -/

/-- K1 and K2. -/
theorem test_skp :
    onNext (cycleOf 0xE19E { withV [(1, 5)] with key := pressing [5] }) (fun t => t.pc == 0x204) = true ∧
    onNext (cycleOf 0xE19E (withV [(1, 5)])) (fun t => t.pc == 0x202) = true := by
  decide
/-- K3 and K4. -/
theorem test_sknp :
    onNext (cycleOf 0xE1A1 { withV [(1, 5)] with key := pressing [5] }) (fun t => t.pc == 0x202) = true ∧
    onNext (cycleOf 0xE1A1 (withV [(1, 5)])) (fun t => t.pc == 0x204) = true := by
  decide
/-- K5: the fault, and the two value policies. -/
theorem test_skp_index_16 :
    execSkp 1 (withV [(1, 0x10)]) = .fault (.keyIndexOutOfRange 0x200) ∧
    onNext (cycleOf 0xE19E { withV [(1, 0x10)] with
        key := pressing [0], params := { defaultParams with keyIndexPolicy := .lowNibble } })
      (fun t => t.pc == 0x204) = true ∧
    onNext (cycleOf 0xE19E { withV [(1, 0x10)] with
        key := pressing [0], params := { defaultParams with keyIndexPolicy := .notPressed } })
      (fun t => t.pc == 0x202) = true :=
  ⟨rfl, by decide, by decide⟩
/-- K6 and K9. -/
theorem test_ldVxK :
    onNext (cycleOf 0xF50A { State.reset with key := pressing [3, 7] }) (fun t => t.getV 5 == 3 && t.pc == 0x202) = true ∧
    onNext (cycleOf 0xF50A { State.reset with key := pressing [14, 15] }) (fun t => t.getV 5 == 14) = true := by
  decide
/-- K7 and K8. -/
theorem test_ldVxK_waits :
    onNext (cycleOf 0xF50A State.reset) (fun t => t.pc == 0x200) = true ∧
    onNext (cycleOf 0xF50A { State.reset with key := pressing [15] }) (fun t => t.pc == 0x200) = true := by
  decide

/-! ## Timers and memory transfer -/

/-- T1. -/
theorem test_ldVxDt : onNext (cycleOf 0xF307 { State.reset with dt := 0x3C }) (fun t => t.getV 3 == 0x3C) = true := by
  decide
/-- T2. -/
theorem test_ldDtVx : onNext (cycleOf 0xF215 (withV [(2, 60)])) (fun t => t.dt == 60) = true := by decide
/-- R334. -/
theorem test_ldStVx : onNext (cycleOf 0xF218 (withV [(2, 1)])) (fun t => t.st == 1 && t.sound) = true := by decide
/-- T7: the digits wrap past 0xFFF. -/
theorem test_ldB :
    onNext (cycleOf 0xF133 { withV [(1, 157)] with i := 0xFFE })
      (fun t => t.memRead 0xFFE == 1 && t.memRead 0xFFF == 5 && t.memRead 0x000 == 7 && t.i == 0xFFE) = true := by
  decide
/-- T9. -/
theorem test_ldMemVx :
    onNext (cycleOf 0xF255 { withV [(0, 1), (1, 2), (2, 3)] with i := 0x400 })
      (fun t => t.memRead 0x400 == 1 && t.memRead 0x401 == 2 && t.memRead 0x402 == 3 && t.i == 0x400) = true := by
  decide
/-- T10, with I moved under `plus_x_plus_1` (R339). -/
theorem test_ldMemVx_wraps :
    onNext (cycleOf 0xF155 { withV [(0, 0xAA), (1, 0xBB)] with
        i := 0xFFF, params := { defaultParams with loadStoreIMode := .plusXPlus1 } })
      (fun t => t.memRead 0xFFF == 0xAA && t.memRead 0x000 == 0xBB && t.i == 0x001) = true := by
  decide
/-- T11: the first bytes of large glyph 0. -/
theorem test_ldVxMem :
    onNext (cycleOf 0xF165 { State.reset with i := 0x050 })
      (fun t => t.getV 0 == 0xFF && t.getV 1 == 0xFF && t.getV 2 == 0 && t.i == 0x050) = true := by
  decide

/-! ## Witnesses: for every statement with hypotheses, states and operands that meet them, clause by clause -/

/-- Words whose ignored nibble is not 0, and one under the parameters that ignore none. -/
theorem witness_EncodeOfDecodeGivesTheWordBack :
    decode defaultParams 0x01E0 = .instr .cls ∧ decode defaultParams 0x912F = .instr (.sneReg 1 2) ∧
    decode { defaultParams with group0Match := .fullWord, strict59 := true } 0x5120 = .instr (.seReg 1 2) := by
  decide
theorem witness_OpcodeMapRowsNeverOverlap :
    ∃ r ∈ opcodeMap, rowMatches defaultParams 0x00E0 r = true := ⟨opcodeMap[0], by decide, by decide⟩
theorem witness_DecodeReadsOnlyTheDecodeParameters :
    defaultParams.group0Match = { defaultParams with shiftSource := .vy }.group0Match ∧
    defaultParams.strict59 = { defaultParams with shiftSource := .vy }.strict59 := by
  decide
theorem witness_UnknownWordsAreTheListedNoOps :
    (State.holding State.reset 0x0123).decoded = .rejected (.unknown 0x0123) := by decide
theorem witness_StepRunsTheDecodedInstruction :
    decodeBytes (State.holding State.reset 0x6A2F).params
      [(State.holding State.reset 0x6A2F).memRead 0x200, (State.holding State.reset 0x6A2F).memRead 0x201]
      = (.instr (.ldImm 0xA 0x2F), []) ∧
    (State.holding State.reset 0x6A2F).ticks = [] ∧
    (State.holding { State.reset with ticks := [⟨1, pressing []⟩] } 0x6A2F).ticks = [⟨1, pressing []⟩] := by
  decide
theorem witness_CyclePcFollowsTheNextPcTable :
    (∃ t, cycle (State.holding State.reset 0x1ABC) = .next t) ∧ (∃ t, cycle State.reset = .next t) := ⟨⟨_, rfl⟩, ⟨_, rfl⟩⟩
theorem witness_CycleFaultsOnlyOnAKeyIndexAboveFifteen :
    FaultsOnKeyIndex (State.holding (withV [(1, 0x10)]) 0xE19E) ∧ ¬FaultsOnKeyIndex State.reset :=
  ⟨⟨by decide, 1, .inl (by decide), by decide⟩, fun ⟨_, x, h, _⟩ => by
    rcases h with h | h <;> exact absurd h (by revert x; decide)⟩
theorem witness_CyclesLeaveWhatTheHostOwns : ∃ t, runCycles 2 (State.holding State.reset 0x1200) = .next t := ⟨_, rfl⟩
theorem witness_TimersStepOnceAtTheEndOfATick :
    (∃ t, runCycles 0 State.reset = .next t) ∧ (∃ t, runCycles 1 State.reset = .next t) ∧
    (∃ t, cycle State.reset = .next t ∧ (∀ x, State.reset.decoded ≠ .instr (.ldDtVx x)) ∧
      ∀ x, State.reset.decoded ≠ .instr (.ldStVx x)) :=
  ⟨⟨_, rfl⟩, ⟨_, rfl⟩, ⟨_, rfl, by decide, by decide⟩⟩
theorem witness_TickEndStepsTimersAndSetsKeys :
    ({ State.reset with ticks := [⟨0, pressing [9]⟩] } : State).ticks = ⟨0, pressing [9]⟩ :: [] ∧
    (⟨0, pressing [9]⟩ : HostTick).cycles = 0 := by
  decide
theorem witness_StepKeepsTheMachineInvariant : Inv State.reset ∧ ∃ t, step State.reset = .next t :=
  ⟨⟨by decide, by decide, by decide, by decide⟩, ⟨_, rfl⟩⟩
/-- For `ReadsGiveTheMostRecentWrite`, `RomLoadPlacesTheImage`, `StoredWordIsFetched`, `PlacedWordRunsNext`,
`BcdStoresThreeDigits` and `BlockStoreWritesV0ToVx`: canonical memory, at reset and with a byte listed. -/
theorem witness_canonical_memory :
    Memory.wf State.reset.params State.reset.mem = true ∧
    Memory.wf (State.reset.memWrite 0x000 0x11).params (State.reset.memWrite 0x000 0x11).mem = true := by
  decide
theorem witness_CanonicalMemoriesWithTheSameBytesAreEqual :
    Memory.wf defaultParams [(0x300, 1)] = true ∧
    ∀ a < 4096, Memory.read defaultParams [(0x300, 1)] a = Memory.read defaultParams [(0x300, 1)] a :=
  ⟨by decide, fun _ _ => rfl⟩
/-- RET: the empty stack, the bottom slot and the top slot. -/
theorem witness_RetPopsOrDoesNothing :
    State.reset.sp < 0 ∧ ({ State.reset with sp := 0 } : State).sp = (0 : Fin 16).val ∧
    ({ State.reset with sp := 15 } : State).sp = (15 : Fin 16).val := by
  decide
theorem witness_ExitHaltsByRepeatingItself : Halted (State.holding State.reset 0x00FD) := by
  show (State.holding State.reset 0x00FD).decoded = _
  decide
/-- The scrolls: moving in hi-res and in low-res, and not moving under `noop`. -/
theorem witness_ScrollsShiftEveryCell :
    (State.reset.ext = true ∨ State.reset.params.scrollLowres = .physical) ∧
    ¬(State.reset.ext = true ∨ ({ defaultParams with scrollLowres := .noop } : Config.Params).scrollLowres = .physical) := by
  decide
theorem witness_JpLandsOnItsTarget : (State.holding State.reset 0x1000).decoded = .instr (.jp 0) := by decide
/-- CALL: SP at 15, and at both ends of -1..14. -/
theorem witness_CallPushesTheReturnAddress :
    15 ≤ ({ State.reset with sp := 15 } : State).sp ∧ State.reset.sp = ((0 : Fin 16).val : Int) - 1 ∧
    ({ State.reset with sp := 14 } : State).sp = ((15 : Fin 16).val : Int) - 1 := by
  decide
/-- A CALL at 0x200 to 0x300, where a RET stands. -/
theorem witness_RetAfterCallReturns :
    let s := State.holding (State.reset.memWriteBytes 0x300 [0x00, 0xEE]) 0x2300
    s.sp ≥ -1 ∧ s.sp < 15 ∧ s.decoded = .instr (.call 0x300) ∧ ∃ t, cycle s = .next t ∧ t.decoded = .instr .ret :=
  ⟨by decide, by decide, by decide, _, rfl, by decide⟩
theorem witness_SixteenCallsFillTheStack :
    State.reset.sp = -1 ∧ ([] : List Addr).length ≤ 16 ∧ (List.replicate 16 (0x300 : Addr)).length = 16 := by decide
theorem witness_ShiftsSetTheBitShiftedOutLast :
    (0x81 : Nat) = (if (withV [(1, 0x81)]).params.shiftSource = .vx then (withV [(1, 0x81)]).getV 1
      else (withV [(1, 0x81)]).getV 2).toNat := by
  decide
theorem witness_JpV0AddsV0 : (State.holding State.reset 0xBFFF).decoded = .instr (.jpV0 0xFFF) := by decide
/-- Two draws at (0, 0) with VF no coordinate. -/
theorem witness_DrawingTwiceRestoresTheBuffer :
    ∃ t u, exec (.drw 0 1 1) State.reset = .next t ∧ t.getV 0 = State.reset.getV 0 ∧ t.getV 1 = State.reset.getV 1 ∧
      exec (.drw 0 1 1) t = .next u := ⟨_, _, rfl, by decide, by decide, rfl⟩
theorem witness_ZeroHeightDrawOnlyClearsVf :
    State.reset.ext = false ∧ (({ State.reset with ext := true } : State).ext = true ∨ (0 : Nibble) ≠ 0) ∧
    (State.reset.ext = true ∨ (1 : Nibble) ≠ 0) := by
  decide
/-- The key skips: V[x] = 15, V[x] = 16 under `low_nibble`, V[x] = 255 under `not_pressed`. -/
theorem witness_KeySkipsTestTheNamedKey :
    (((withV [(1, 15)]).getV 1).toNat = (15 : Fin 16).val ∧ (false = (withV [(1, 15)]).key[(15 : Fin 16).val])) ∧
    (((withV [(1, 16)]).getV 1).toNat > 15 ∧ ({ defaultParams with keyIndexPolicy := .lowNibble } : Config.Params).keyIndexPolicy
      = .lowNibble ∧ ((withV [(1, 16)]).getV 1).toNat % 16 = (0 : Fin 16).val) ∧
    (((withV [(1, 255)]).getV 1).toNat > 15 ∧
      ({ defaultParams with keyIndexPolicy := .notPressed } : Config.Params).keyIndexPolicy = .notPressed) := by
  decide
theorem witness_KeySkipsFaultAboveFifteenUnderFaultPolicy :
    (withV [(1, 16)]).params.keyIndexPolicy = .fault ∧ ((withV [(1, 16)]).getV 1).toNat > 15 := by
  decide
/-- The key wait: no key of 0..14 though key 15 is pressed, at an LD V5, K word; key 0; key 14 alone. -/
theorem witness_KeyWaitTakesTheLowestOfKeysZeroToFourteen :
    (∀ k : Fin 15, (pressing [15])[k.val] = false) ∧
    (State.holding { State.reset with key := pressing [15] } 0xF50A).decoded = .instr (.ldVxK 5) ∧
    ((pressing [0])[(0 : Fin 15).val] = true ∧ ∀ j : Fin 15, j < 0 → (pressing [0])[j.val] = false) ∧
    ((pressing [14])[(14 : Fin 15).val] = true ∧ ∀ j : Fin 15, j < 14 → (pressing [14])[j.val] = false) := by
  decide
/-- The frames: an instruction that answers a state and may not write the part in question, for each. -/
theorem witness_frames :
    (∃ t, exec (.addReg 1 2) State.reset = .next t ∧ mayWriteV (.addReg 1 2) 3 = false ∧
      mayWriteI State.reset.params (.addReg 1 2) = false ∧ mayWriteDisp (.addReg 1 2) = false ∧
      mayMovePc (.addReg 1 2) = false) ∧
    (∃ t, exec (.ldMemVx 2) State.reset = .next t ∧ mayWriteI State.reset.params (.ldMemVx 2) = false ∧
      ∀ k < storedBytes (.ldMemVx 2), (0x003 : Addr) ≠ State.reset.indexed k) ∧
    (∃ t, exec (.call 0x300) State.reset = .next t ∧ -1 ≤ State.reset.sp ∧ ((1 : Fin 16).val : Int) ≠ t.sp) :=
  ⟨⟨_, rfl, by decide, by decide, by decide, by decide⟩, ⟨_, rfl, by decide, by decide⟩, ⟨_, rfl, by decide, by decide⟩⟩

end Sys2Proof.Tests
end

section
/-! PROOF. The byte-addressed memory of `20_memory.md`: reads after a list of writes (R75) and the fetched word (R71). -/

namespace Sys2Proof.Machine

/-- A byte read after a list of writes: the last write to its address, the first met from the end, decides it. -/
theorem State.memRead_foldl_memWrite (writes : List (Addr × Byte)) {s : State} (c : Addr)
    (h : Memory.wf s.params s.mem = true) :
    (writes.foldl (fun s w => s.memWrite w.1 w.2) s).memRead c =
      (writes.reverse.find? fun w => w.1 == c).elim (s.memRead c) Prod.snd := by
  induction writes generalizing s with
  | nil => rfl
  | cons w rest ih =>
    obtain ⟨a, b⟩ := w
    rw [List.foldl_cons, ih (State.memWrite_wf h a b), State.memRead_memWrite h, List.reverse_cons, List.find?_append]
    cases rest.reverse.find? fun w => w.1 == c with
    | some later => rfl
    | none =>
      by_cases hac : a = c
      · simp [hac]
      · simp [hac, Ne.symm hac]

/-- Settles O19: the list of writes is taken one by one, each keeping the canonical form. -/
theorem readsGiveTheMostRecentWrite : Obligations.ReadsGiveTheMostRecentWrite := by
  intro writes s c h
  rw [State.memRead_foldl_memWrite writes c h]
  cases writes.reverse.find? fun w => w.1 == c <;> rfl

/-- A word made of two bytes has the first as its high byte (`20_memory.md` R71). -/
theorem wordOfBytes_toNat (hi lo : Byte) : (wordOfBytes hi lo).toNat = hi.toNat * 256 + lo.toNat := by
  have hlo : lo.toNat < 2 ^ 8 := lo.isLt
  rw [wordOfBytes, BitVec.toNat_append, ← Nat.shiftLeft_add_eq_or_of_lt hlo, Nat.shiftLeft_eq]

/-- Settles O9: addresses are 12 bits wide, so the byte after PC is at PC + 1 modulo 4096. -/
theorem fetchIsBigEndian : Obligations.FetchIsBigEndian := by
  intro s
  have hnext : (s.pc + 1).toNat = (s.pc.toNat + 1) % 4096 := BitVec.toNat_add s.pc 1
  rw [State.fetch, wordOfBytes_toNat, State.memRead, State.memRead, hnext]

end Sys2Proof.Machine
end

section
/-! PROOF. The timer step of `60_exceptions.md` R380: once at the end of a frame tick, and at no other time. -/

namespace Sys2Proof.Machine

variable {s t : State}

/-- A timer after its step, on the timer's number (`60_exceptions.md` R380). -/
theorem countDown_eq_ofNat (b : Byte) :
    countDown b = if b.toNat > 0 then BitVec.ofNat 8 (b.toNat - 1) else b := by
  have hcount : countDown b = BitVec.ofNat 8 (b.toNat - 1) := by
    rw [← countDown_toNat, BitVec.ofNat_toNat, BitVec.setWidth_eq]
  split
  · exact hcount
  · exact if_neg ‹_›

/-- `advance(n)` ends with the timer step once its n cycles have answered a state (`60_exceptions.md` R390). -/
theorem advance_of_runCycles {n : Nat} (h : runCycles n s = .next t) : advance n s = .next t.timerStep := by
  simp only [advance, h]

/-- The execute step leaves DT to LD DT, Vx and ST to LD ST, Vx (`10_state.md` R36, R37). -/
theorem exec_keeps_timers {i : Instr} (h : exec i s = .next t) :
    ((∀ x, i ≠ .ldDtVx x) → t.dt = s.dt) ∧ ((∀ x, i ≠ .ldStVx x) → t.st = s.st) := by
  cases i
  case ldDtVx x =>
    obtain rfl := Host.Outcome.next.inj h
    exact ⟨fun hd => absurd rfl (hd x), fun _ => rfl⟩
  case ldStVx x =>
    obtain rfl := Host.Outcome.next.inj h
    exact ⟨fun _ => rfl, fun hs => absurd rfl (hs x)⟩
  case ret | call | ldVxK | skp | sknp =>
    simp only [exec, execRet, execCall, execLdVxK, execSkp, execSknp] at h
    split at h <;> cases h <;> simp
  all_goals
    obtain rfl := Host.Outcome.next.inj h
    simp

/-- A cycle leaves DT to LD DT, Vx and ST to LD ST, Vx: an UNKNOWN word and the uniform advance change neither. -/
theorem cycle_keeps_timers (h : cycle s = .next t) :
    ((∀ x, s.decoded ≠ .instr (.ldDtVx x)) → t.dt = s.dt) ∧
      ((∀ x, s.decoded ≠ .instr (.ldStVx x)) → t.st = s.st) := by
  obtain ⟨i, u, hi, hu, rfl⟩ | ⟨r, -, rfl⟩ := cycle_cases h
  · obtain ⟨hdt, hst⟩ := exec_keeps_timers hu
    exact ⟨fun hno => hdt fun x hx => hno x (hx ▸ hi), fun hno => hst fun x hx => hno x (hx ▸ hi)⟩
  · exact ⟨fun _ => rfl, fun _ => rfl⟩

/-- Settles O13: `advance` applies the timer step to what the cycles leave, and no cycle applies it. -/
theorem timersStepOnceAtTheEndOfATick : Obligations.TimersStepOnceAtTheEndOfATick := by
  refine ⟨fun n s t h => ?_, fun s t => cycle_keeps_timers⟩
  rw [advance_of_runCycles h, ← countDown_eq_ofNat, ← countDown_eq_ofNat]
  rfl

end Sys2Proof.Machine
end

section
/-! PROOF. The decoder and the encoder of `30_encoding.md`: what a word decodes to is said once, by
`decode_eq_instr_iff`, and the statements on encodings follow from it. -/

namespace Sys2Proof

variable {p : Config.Params} {op : Word} {i : Instr}

/-- The words of SCD n are none of the seven words group 0 lists one by one (`30_encoding.md` R110). -/
theorem decodeGroup0_scd (hx : p.group0Match = .fullWord → fieldX op = 0) (hy : fieldY op = 0xC) :
    decodeGroup0 p op = .instr (.scd (fieldN op)) := by
  have hp : ¬(p.group0Match = .fullWord ∧ fieldX op ≠ 0) := fun h => h.2 (hx h.1)
  rw [decodeGroup0, if_neg hp, fieldNn_eq, if_pos hy, hy]
  generalize fieldN op = n
  revert n
  decide

/-- Decoding an encoded instruction gives the instruction back (`30_encoding.md` R110, R112). -/
theorem decode_encode (p : Config.Params) (i : Instr) : decode p (encode i) = .instr i := by
  cases i
  case cls | ret | exit | high | low | scr | scl =>
    simp [encode_cls, encode_ret, encode_exit, encode_high, encode_low, encode_scr, encode_scl, decode,
      decodeGroup0, fieldNn_eq]
  case scd n => simp [encode, decode, decodeGroup0_scd]
  all_goals
    simp [encode, decode, decodeGroup5, decodeGroup8, decodeGroup9, decodeGroupE, decodeGroupF]

/-- Settles O1: the bytes of the word read back as the word, and the word as the instruction. -/
theorem decodeOfEncodeIsTheInstruction : Obligations.DecodeOfEncodeIsTheInstruction := by
  intro p i rest
  exact ⟨decode_encode p i, by rw [encodeBytes, decodeBytes_bytesOfWord, decode_encode]⟩

/-- The word with 0 in the nibble the decoder may ignore: x in group 0, n in groups 5 and 9 (`30_encoding.md` R110). -/
def clearIgnored (op : Word) : Word :=
  if fieldT op = 0x0 then wordOfNibbles 0x0 0x0 (fieldY op) (fieldN op)
  else if fieldT op = 0x5 ∨ fieldT op = 0x9 then wordOfNibbles (fieldT op) (fieldX op) (fieldY op) 0x0
  else op

/-- The nibble the decoder may ignore is 0 where a decode parameter asks for that (decisions D7 and D8). -/
def IgnoredFits (p : Config.Params) (op : Word) : Prop :=
  (fieldT op = 0x0 → p.group0Match = .fullWord → fieldX op = 0x0) ∧
  (fieldT op = 0x5 ∨ fieldT op = 0x9 → p.strict59 = true → fieldN op = 0x0)

/-- The low byte of a word written by its two nibbles. -/
theorem wordOfByte_fieldNn (t x : Nibble) (op : Word) :
    wordOfByte t x (fieldNn op) = wordOfNibbles t x (fieldY op) (fieldN op) := by
  have h := wordOfByte_fields (wordOfNibbles t x (fieldY op) (fieldN op))
  rwa [fieldT_wordOfNibbles, fieldX_wordOfNibbles, fieldNn_eq, fieldY_wordOfNibbles, fieldN_wordOfNibbles,
    ← fieldNn_eq] at h

/-- Group 0 decodes to instructions whose word has its y and n, and only words whose x fits `GROUP0_MATCH`. -/
theorem encode_of_decodeGroup0 (h : decodeGroup0 p op = .instr i) :
    encode i = wordOfNibbles 0x0 0x0 (fieldY op) (fieldN op) ∧ (p.group0Match = .fullWord → fieldX op = 0x0) := by
  unfold decodeGroup0 at h
  split at h
  · cases h
  · rename_i hx
    refine ⟨?_, fun hp => by_contra fun hne => hx ⟨hp, hne⟩⟩
    split at h
    case h_8 =>
      split at h
      · rename_i hy
        obtain rfl := Decoded.instr.inj h
        rw [encode, hy]
      · cases h
    all_goals
      rename_i hnn
      obtain rfl := Decoded.instr.inj h
      rw [← wordOfByte_fieldNn, hnn]
      rfl

/-- Group 8 decodes a word to the instruction it encodes. -/
theorem encode_of_decodeGroup8 (ht : fieldT op = 0x8) (h : decodeGroup8 op = .instr i) : encode i = op := by
  have hw := wordOfNibbles_fields op
  unfold decodeGroup8 at h
  split at h
  case h_10 => cases h
  all_goals
    rename_i hn
    obtain rfl := Decoded.instr.inj h
    rw [ht, hn] at hw
    exact hw

/-- Group E decodes a word to the instruction it encodes. -/
theorem encode_of_decodeGroupE (ht : fieldT op = 0xE) (h : decodeGroupE op = .instr i) : encode i = op := by
  have hw := wordOfByte_fields op
  unfold decodeGroupE at h
  split at h
  case h_3 => cases h
  all_goals
    rename_i hnn
    obtain rfl := Decoded.instr.inj h
    rw [ht, hnn] at hw
    exact hw

/-- Group F decodes a word to the instruction it encodes. -/
theorem encode_of_decodeGroupF (ht : fieldT op = 0xF) (h : decodeGroupF op = .instr i) : encode i = op := by
  have hw := wordOfByte_fields op
  unfold decodeGroupF at h
  split at h
  case h_10 => cases h
  all_goals
    rename_i hnn
    obtain rfl := Decoded.instr.inj h
    rw [ht, hnn] at hw
    exact hw

/-- The decoder's last group is F (`30_encoding.md` R110). -/
theorem group_eq_F {t : Nibble} (h : ∀ k < 15, t.toNat ≠ k) : t = 0xF := by
  have ht := t.isLt
  have h15 : ¬t.toNat < 15 := fun hlt => h _ hlt rfl
  apply BitVec.eq_of_toNat_eq
  show t.toNat = 15
  omega

/-- Outside groups 0, 5 and 9 the decoder ignores no nibble. -/
theorem ignoresNothing (p : Config.Params) (h : fieldT op ≠ 0x0 ∧ fieldT op ≠ 0x5 ∧ fieldT op ≠ 0x9) :
    clearIgnored op = op ∧ IgnoredFits p op := by
  obtain ⟨h0, h5, h9⟩ := h
  have h59 : ¬(fieldT op = 0x5 ∨ fieldT op = 0x9) := by tauto
  exact ⟨by rw [clearIgnored, if_neg h0, if_neg h59], fun h => absurd h h0, fun h => absurd h h59⟩

/-- A decoded word is the encoding of its instruction, but for the nibble the decoder ignores. -/
theorem encode_of_decode (h : decode p op = .instr i) : encode i = clearIgnored op ∧ IgnoredFits p op := by
  unfold decode at h
  split at h
  case h_1 ht =>
    obtain ⟨he, hx⟩ := encode_of_decodeGroup0 h
    exact ⟨he.trans (if_pos ht).symm, fun _ => hx, fun h59 => by simp [ht] at h59⟩
  case h_6 ht | h_10 ht =>
    simp only [decodeGroup5, decodeGroup9] at h
    split at h
    · cases h
    · rename_i hn
      obtain rfl := Decoded.instr.inj h
      exact ⟨by simp [clearIgnored, ht, encode], by simp [ht], fun _ hp => by_contra fun hne => hn ⟨hp, hne⟩⟩
  case h_16 =>
    have ht : fieldT op = 0xF := group_eq_F fun k hk => by interval_cases k <;> bv_omega
    obtain ⟨hc, hf⟩ := ignoresNothing p (op := op) (by rw [ht]; decide)
    exact ⟨hc.symm ▸ encode_of_decodeGroupF ht h, hf⟩
  all_goals
    rename_i ht
    obtain ⟨hc, hf⟩ := ignoresNothing p (op := op) (by rw [ht]; decide)
    refine ⟨hc.symm ▸ ?_, hf⟩
  case h_9 => exact encode_of_decodeGroup8 ht h
  case h_15 => exact encode_of_decodeGroupE ht h
  all_goals
    obtain rfl := Decoded.instr.inj h
    have hAddr := wordOfAddr_fields op
    have hByte := wordOfByte_fields op
    have hNibbles := wordOfNibbles_fields op
    rw [ht] at hAddr hByte hNibbles
    simp [encode, hAddr, hByte, hNibbles]

/-- Clearing the ignored nibble leaves the group. -/
theorem fieldT_clearIgnored (op : Word) : fieldT (clearIgnored op) = fieldT op := by
  unfold clearIgnored
  split
  · simp [*]
  · split <;> simp

/-- Group 0 reads x for `GROUP0_MATCH` alone: where x fits, the word with x = 0 decodes to the same instruction. -/
theorem decodeGroup0_of_clear_x (hx : p.group0Match = .fullWord → fieldX op = 0)
    (h : decodeGroup0 p (wordOfNibbles 0x0 0x0 (fieldY op) (fieldN op)) = .instr i) : decodeGroup0 p op = .instr i := by
  have hfits : ¬(p.group0Match = .fullWord ∧ fieldX op ≠ 0) := fun h => h.2 (hx h.1)
  have hnn : fieldNn (wordOfNibbles 0x0 0x0 (fieldY op) (fieldN op)) = fieldNn op := by
    rw [fieldNn_eq, fieldY_wordOfNibbles, fieldN_wordOfNibbles, fieldNn_eq]
  rw [decodeGroup0, if_neg (by simp), hnn, fieldY_wordOfNibbles, fieldN_wordOfNibbles] at h
  rw [decodeGroup0, if_neg hfits]
  split at h
  case h_8 =>
    split at h
    · rename_i hy
      exact (if_pos hy).trans h
    · cases h
  all_goals exact h

/-- Groups 5 and 9 read n for `STRICT_5_9` alone. -/
theorem decodeRegisterSkip_of_fits (hn : p.strict59 = true → fieldN op = 0) :
    decodeGroup5 p op = .instr (.seReg (fieldX op) (fieldY op)) ∧
      decodeGroup9 p op = .instr (.sneReg (fieldX op) (fieldY op)) :=
  have hfits : ¬(p.strict59 = true ∧ fieldN op ≠ 0) := fun h => h.2 (hn h.1)
  ⟨if_neg hfits, if_neg hfits⟩

/-- A word whose ignored nibble fits decodes as the word with that nibble cleared, where that one decodes. -/
theorem decode_of_decode_clearIgnored (hf : IgnoredFits p op) (h : decode p (clearIgnored op) = .instr i) :
    decode p op = .instr i := by
  obtain ⟨hx, hn⟩ := hf
  by_cases h0 : fieldT op = 0x0
  · rw [clearIgnored, if_pos h0, decode, fieldT_wordOfNibbles] at h
    rw [decode, h0]
    exact decodeGroup0_of_clear_x (hx h0) h
  by_cases h59 : fieldT op = 0x5 ∨ fieldT op = 0x9
  · rw [clearIgnored, if_neg h0, if_pos h59] at h
    obtain ⟨h5, h9⟩ := decodeRegisterSkip_of_fits (hn h59)
    rcases h59 with ht | ht
    · rw [decode, ht, h5]
      rw [ht] at h
      exact (decode_encode p (.seReg _ _)).symm.trans h
    · rw [decode, ht, h9]
      rw [ht] at h
      exact (decode_encode p (.sneReg _ _)).symm.trans h
  · rwa [clearIgnored, if_neg h0, if_neg h59] at h

/-- What a word decodes to: the instruction it encodes, where the nibble the decoder may ignore is taken as 0
(`30_encoding.md` R110). -/
theorem decode_eq_instr_iff : decode p op = .instr i ↔ encode i = clearIgnored op ∧ IgnoredFits p op :=
  ⟨encode_of_decode, fun ⟨he, hf⟩ => decode_of_decode_clearIgnored hf (he ▸ decode_encode p i)⟩

/-- Every word of a group 0 instruction decodes to it: the encoding's, with any x that `GROUP0_MATCH` lets pass. -/
theorem group0DecodesTo {y n : Nibble} (he : encode i = wordOfNibbles 0x0 0x0 y n) : Group0DecodesTo y n i := by
  intro p q hq
  refine decode_eq_instr_iff.2 ⟨by simp [clearIgnored, he], fun _ hfull => ?_, fun h59 _ => by simp at h59⟩
  rcases hq with hlow | hq
  · simp [hlow] at hfull
  · simpa using hq

/-- The words of the register skips decode to them, with any n that `STRICT_5_9` lets pass. -/
theorem decode_registerSkip {p : Config.Params} {q : Nibble} (x y : Nibble) (hq : p.strict59 = false ∨ q = 0) :
    decode p (wordOfNibbles 0x5 x y q) = .instr (.seReg x y) ∧
      decode p (wordOfNibbles 0x9 x y q) = .instr (.sneReg x y) := by
  have hn : p.strict59 = true → q = 0 := fun hs => hq.resolve_left (by simp [hs])
  constructor <;>
    exact decode_eq_instr_iff.2 ⟨by simp [clearIgnored, encode], by simp, fun _ hs => by simpa using hn hs⟩

/-- Settles O4: both readings of `clearIgnored`, in general and where the parameters ignore no nibble. -/
theorem encodeOfDecodeGivesTheWordBack : Obligations.EncodeOfDecodeGivesTheWordBack := by
  intro p op i h
  obtain ⟨he, hx, hn⟩ := encode_of_decode h
  refine ⟨he, fun hfull hstrict => he.trans ?_⟩
  unfold clearIgnored
  split
  · rename_i h0
    calc wordOfNibbles 0x0 0x0 (fieldY op) (fieldN op)
        = wordOfNibbles (fieldT op) (fieldX op) (fieldY op) (fieldN op) := by rw [h0, hx h0 hfull]
      _ = op := wordOfNibbles_fields op
  · split
    · rename_i h59
      rw [← hn h59 hstrict, wordOfNibbles_fields]
    · rfl

/-- Settles O5: the branches of the decoder test these two parameters alone. -/
theorem decodeReadsOnlyTheDecodeParameters : Obligations.DecodeReadsOnlyTheDecodeParameters := by
  intro p q op hgroup0 hstrict
  simp only [decode, decodeGroup0, decodeGroup5, decodeGroup9, hgroup0, hstrict]

/-- Settles O7: sixteen evaluations of the decoder. -/
theorem vectorWordsDecodeAsListed : Obligations.VectorWordsDecodeAsListed := by
  unfold Obligations.VectorWordsDecodeAsListed
  decide

/-! ### The opcode map -/

/-- Two patterns that no nibble fits: different fixed digits. -/
def NibblePattern.clash : NibblePattern → NibblePattern → Bool
  | .digit d, .digit e => d != e
  | _, _ => false

/-- Two rows that no word matches, for their patterns of some nibble clash. -/
def OpcodeRow.clash (r r' : OpcodeRow) : Bool :=
  r.t.clash r'.t || r.x.clash r'.x || r.y.clash r'.y || r.n.clash r'.n

/-- Clashing patterns have no nibble in common. -/
theorem not_clash_of_nibbleFits {v : Nibble} {a b : NibblePattern} (ha : nibbleFits p v a = true)
    (hb : nibbleFits p v b = true) : a.clash b = false := by
  cases a <;> cases b <;> simp_all [NibblePattern.clash, nibbleFits]

/-- What a word that matches a row does in each nibble. -/
theorem rowMatches_iff {r : OpcodeRow} : rowMatches p op r = true ↔
    nibbleFits p (fieldT op) r.t = true ∧ nibbleFits p (fieldX op) r.x = true ∧
      nibbleFits p (fieldY op) r.y = true ∧ nibbleFits p (fieldN op) r.n = true := by
  simp only [rowMatches, Bool.and_eq_true, and_assoc]

/-- Any two different rows of the map clash (`30_encoding.md` R112). -/
theorem opcodeMap_clash : ∀ r ∈ opcodeMap, ∀ r' ∈ opcodeMap, r = r' ∨ r.clash r' = true := by
  decide

/-- Settles O3: a word that matches two rows fits both in every nibble, so they do not clash. -/
theorem opcodeMapRowsNeverOverlap : Obligations.OpcodeMapRowsNeverOverlap := by
  intro p op r hr r' hr' h h'
  obtain ⟨ht, hx, hy, hn⟩ := rowMatches_iff.1 h
  obtain ⟨ht', hx', hy', hn'⟩ := rowMatches_iff.1 h'
  refine (opcodeMap_clash r hr r' hr').resolve_right ?_
  simp [OpcodeRow.clash, not_clash_of_nibbleFits ht ht', not_clash_of_nibbleFits hx hx',
    not_clash_of_nibbleFits hy hy', not_clash_of_nibbleFits hn hn']

/-- Every row of the map has a fixed first digit, and ignores x in group 0 and n in groups 5 and 9. -/
theorem opcodeMap_ignored : ∀ r ∈ opcodeMap, (∃ d, r.t = .digit d) ∧ (r.t = .digit 0x0 → r.x = .ignoredByGroup0) ∧
    (r.t = .digit 0x5 ∨ r.t = .digit 0x9 → r.n = .ignoredByGroups59) := by
  decide

/-- The x nibble of group 0 fits its pattern. -/
theorem nibbleFits_ignoredByGroup0 {v : Nibble} :
    nibbleFits p v .ignoredByGroup0 = true ↔ (p.group0Match = .fullWord → v = 0x0) := by
  cases hp : p.group0Match <;> simp [nibbleFits, hp]

/-- The n nibble of groups 5 and 9 fits its pattern. -/
theorem nibbleFits_ignoredByGroups59 {v : Nibble} :
    nibbleFits p v .ignoredByGroups59 = true ↔ (p.strict59 = true → v = 0x0) := by
  cases hp : p.strict59 <;> simp [nibbleFits, hp]

/-- A word matches a row of the map exactly when it does with the ignored nibble cleared and that nibble fits. -/
theorem rowMatches_clearIgnored {r : OpcodeRow} (hr : r ∈ opcodeMap) :
    rowMatches p op r = true ↔ rowMatches p (clearIgnored op) r = true ∧ IgnoredFits p op := by
  obtain ⟨⟨d, hd⟩, h0, h59⟩ := opcodeMap_ignored r hr
  by_cases ht : fieldT op = d
  case neg => simp [rowMatches_iff, fieldT_clearIgnored, hd, nibbleFits, ht]
  subst ht
  by_cases ht0 : fieldT op = 0x0
  · have hrx : r.x = .ignoredByGroup0 := h0 (ht0 ▸ hd)
    have hno59 : ¬(fieldT op = 0x5 ∨ fieldT op = 0x9) := by rw [ht0]; decide
    simp only [rowMatches_iff, clearIgnored, if_pos ht0, fieldT_wordOfNibbles, fieldX_wordOfNibbles,
      fieldY_wordOfNibbles, fieldN_wordOfNibbles, hrx, nibbleFits_ignoredByGroup0]
    exact ⟨fun ⟨ht, hx, hy, hn⟩ => ⟨⟨ht0 ▸ ht, fun _ => trivial, hy, hn⟩, fun _ => hx, fun h => absurd h hno59⟩,
      fun ⟨⟨ht, _, hy, hn⟩, hx, _⟩ => ⟨ht0.symm ▸ ht, hx ht0, hy, hn⟩⟩
  by_cases ht59 : fieldT op = 0x5 ∨ fieldT op = 0x9
  · have hrn : r.n = .ignoredByGroups59 := h59 (by rwa [hd, NibblePattern.digit.injEq, NibblePattern.digit.injEq])
    simp only [rowMatches_iff, clearIgnored, if_neg ht0, if_pos ht59, fieldT_wordOfNibbles, fieldX_wordOfNibbles,
      fieldY_wordOfNibbles, fieldN_wordOfNibbles, hrn, nibbleFits_ignoredByGroups59]
    exact ⟨fun ⟨ht, hx, hy, hn⟩ => ⟨⟨ht, hx, hy, fun _ => trivial⟩, fun h => absurd h ht0, fun _ => hn⟩,
      fun ⟨⟨ht, hx, hy, _⟩, _, hn⟩ => ⟨ht, hx, hy, hn ht59⟩⟩
  · obtain ⟨hc, hf⟩ := ignoresNothing p ⟨ht0, not_or.1 ht59⟩
    rw [hc, and_iff_left hf]

/-! Row by row, the fixed digits pick the branch of the decoder. -/

/-- A word with x = 0 that matches a row of group 0 decodes to an instruction of that row. -/
theorem decode_of_rowMatches_group0 {r : OpcodeRow} (h0 : fieldT op = 0x0 → fieldX op = 0x0)
    (hr : r ∈ opcodeRowsGroup0) (h : rowMatches p op r = true) :
    ∃ i, decode p op = .instr i ∧ i.rowNumber = r.number := by
  obtain ⟨ht, -, hy, hn⟩ := rowMatches_iff.1 h
  have hnn := fieldNn_eq op
  simp only [opcodeRowsGroup0, List.mem_cons, List.not_mem_nil, or_false] at hr
  have ht0 : fieldT op = 0x0 := by
    rcases hr with rfl | rfl | rfl | rfl | rfl | rfl | rfl | rfl <;> exact beq_iff_eq.1 ht
  have hfits : ¬(p.group0Match = .fullWord ∧ fieldX op ≠ 0) := fun hx => hx.2 (h0 ht0)
  rw [decode, ht0]
  rcases hr with rfl | rfl | rfl | rfl | rfl | rfl | rfl | rfl
  case inr.inr.inr.inr.inr.inl =>
    exact ⟨.scd (fieldN op), decodeGroup0_scd (fun _ => h0 ht0) (beq_iff_eq.1 hy), rfl⟩
  all_goals
    rw [beq_iff_eq.1 hy, beq_iff_eq.1 hn] at hnn
    refine ⟨_, by rw [decodeGroup0, if_neg hfits, hnn]; rfl, ?_⟩
    rfl

/-- A word that matches a row of groups 1 to 7 and 9, with n = 0 in groups 5 and 9, decodes to an instruction of that
row. -/
theorem decode_of_rowMatches_flow {r : OpcodeRow} (h59 : fieldT op = 0x5 ∨ fieldT op = 0x9 → fieldN op = 0x0)
    (hr : r ∈ opcodeRowsFlow) (h : rowMatches p op r = true) :
    ∃ i, decode p op = .instr i ∧ i.rowNumber = r.number := by
  obtain ⟨ht, -⟩ := rowMatches_iff.1 h
  simp only [opcodeRowsFlow, List.mem_cons, List.not_mem_nil, or_false] at hr
  rcases hr with rfl | rfl | rfl | rfl | rfl | rfl | rfl | rfl
  case inr.inr.inr.inr.inl =>
    rw [decode, beq_iff_eq.1 ht]
    exact ⟨_, (decodeRegisterSkip_of_fits fun _ => h59 (.inl (beq_iff_eq.1 ht))).1, rfl⟩
  case inr.inr.inr.inr.inr.inl =>
    rw [decode, beq_iff_eq.1 ht]
    exact ⟨_, (decodeRegisterSkip_of_fits fun _ => h59 (.inr (beq_iff_eq.1 ht))).2, rfl⟩
  all_goals
    refine ⟨_, by rw [decode, beq_iff_eq.1 ht]; rfl, ?_⟩
    rfl

/-- A word that matches a row of group 8 decodes to an instruction of that row. -/
theorem decode_of_rowMatches_group8 {r : OpcodeRow} (hr : r ∈ opcodeRowsGroup8) (h : rowMatches p op r = true) :
    ∃ i, decode p op = .instr i ∧ i.rowNumber = r.number := by
  obtain ⟨ht, -, -, hn⟩ := rowMatches_iff.1 h
  simp only [opcodeRowsGroup8, List.mem_cons, List.not_mem_nil, or_false] at hr
  rcases hr with rfl | rfl | rfl | rfl | rfl | rfl | rfl | rfl | rfl
  all_goals
    refine ⟨_, by rw [decode, beq_iff_eq.1 ht, decodeGroup8, beq_iff_eq.1 hn]; rfl, ?_⟩
    rfl

/-- A word that matches a row of groups A to E decodes to an instruction of that row. -/
theorem decode_of_rowMatches_indexToKeys {r : OpcodeRow} (hr : r ∈ opcodeRowsIndexToKeys)
    (h : rowMatches p op r = true) : ∃ i, decode p op = .instr i ∧ i.rowNumber = r.number := by
  obtain ⟨ht, -, hy, hn⟩ := rowMatches_iff.1 h
  have hnn := fieldNn_eq op
  simp only [opcodeRowsIndexToKeys, List.mem_cons, List.not_mem_nil, or_false] at hr
  rcases hr with rfl | rfl | rfl | rfl | rfl | rfl
  case inr.inr.inr.inr.inl | inr.inr.inr.inr.inr =>
    rw [beq_iff_eq.1 hy, beq_iff_eq.1 hn] at hnn
    refine ⟨_, by rw [decode, beq_iff_eq.1 ht, decodeGroupE, hnn]; rfl, ?_⟩
    rfl
  all_goals
    refine ⟨_, by rw [decode, beq_iff_eq.1 ht]; rfl, ?_⟩
    rfl

/-- A word that matches a row of group F decodes to an instruction of that row. -/
theorem decode_of_rowMatches_groupF {r : OpcodeRow} (hr : r ∈ opcodeRowsGroupF) (h : rowMatches p op r = true) :
    ∃ i, decode p op = .instr i ∧ i.rowNumber = r.number := by
  obtain ⟨ht, -, hy, hn⟩ := rowMatches_iff.1 h
  have hnn := fieldNn_eq op
  simp only [opcodeRowsGroupF, List.mem_cons, List.not_mem_nil, or_false] at hr
  rcases hr with rfl | rfl | rfl | rfl | rfl | rfl | rfl | rfl | rfl
  all_goals
    rw [beq_iff_eq.1 hy, beq_iff_eq.1 hn] at hnn
    refine ⟨_, by rw [decode, beq_iff_eq.1 ht, decodeGroupF, hnn]; rfl, ?_⟩
    rfl

/-- A word whose ignored nibble is 0 and that matches a row of the map decodes to an instruction of that row. -/
theorem decode_of_rowMatches_cleared {r : OpcodeRow} (h0 : fieldT op = 0x0 → fieldX op = 0x0)
    (h59 : fieldT op = 0x5 ∨ fieldT op = 0x9 → fieldN op = 0x0) (hr : r ∈ opcodeMap) (h : rowMatches p op r = true) :
    ∃ i, decode p op = .instr i ∧ i.rowNumber = r.number := by
  simp only [opcodeMap, List.mem_append] at hr
  rcases hr with (((hr | hr) | hr) | hr) | hr
  · exact decode_of_rowMatches_group0 h0 hr h
  · exact decode_of_rowMatches_flow h59 hr h
  · exact decode_of_rowMatches_group8 hr h
  · exact decode_of_rowMatches_indexToKeys hr h
  · exact decode_of_rowMatches_groupF hr h

/-- The word of every instruction matches the instruction's row of the map, with no nibble to ignore. -/
theorem encode_matches_row : ∀ i, Laws.MapRow.Statement i
  | .cls => Laws.MapRow.cls
  | .ret => Laws.MapRow.ret
  | .exit => Laws.MapRow.exit
  | .high => Laws.MapRow.high
  | .low => Laws.MapRow.low
  | .scd n => Laws.MapRow.scd n
  | .scr => Laws.MapRow.scr
  | .scl => Laws.MapRow.scl
  | .jp nnn => Laws.MapRow.jp nnn
  | .call nnn => Laws.MapRow.call nnn
  | .seImm x nn => Laws.MapRow.seImm x nn
  | .sneImm x nn => Laws.MapRow.sneImm x nn
  | .seReg x y => Laws.MapRow.seReg x y
  | .sneReg x y => Laws.MapRow.sneReg x y
  | .ldImm x nn => Laws.MapRow.ldImm x nn
  | .addImm x nn => Laws.MapRow.addImm x nn
  | .ldReg x y => Laws.MapRow.ldReg x y
  | .orReg x y => Laws.MapRow.orReg x y
  | .andReg x y => Laws.MapRow.andReg x y
  | .xorReg x y => Laws.MapRow.xorReg x y
  | .addReg x y => Laws.MapRow.addReg x y
  | .sub x y => Laws.MapRow.sub x y
  | .shr x y => Laws.MapRow.shr x y
  | .subn x y => Laws.MapRow.subn x y
  | .shl x y => Laws.MapRow.shl x y
  | .ldI nnn => Laws.MapRow.ldI nnn
  | .jpV0 nnn => Laws.MapRow.jpV0 nnn
  | .rnd x nn => Laws.MapRow.rnd x nn
  | .drw x y n => Laws.MapRow.drw x y n
  | .skp x => Laws.MapRow.skp x
  | .sknp x => Laws.MapRow.sknp x
  | .ldVxDt x => Laws.MapRow.ldVxDt x
  | .ldVxK x => Laws.MapRow.ldVxK x
  | .ldDtVx x => Laws.MapRow.ldDtVx x
  | .ldStVx x => Laws.MapRow.ldStVx x
  | .addI x => Laws.MapRow.addI x
  | .ldF x => Laws.MapRow.ldF x
  | .ldB x => Laws.MapRow.ldB x
  | .ldMemVx x => Laws.MapRow.ldMemVx x
  | .ldVxMem x => Laws.MapRow.ldVxMem x

/-- A cleared word has 0 in the nibble the decoder may ignore. -/
theorem clearIgnored_cleared (op : Word) : (fieldT (clearIgnored op) = 0x0 → fieldX (clearIgnored op) = 0x0) ∧
    (fieldT (clearIgnored op) = 0x5 ∨ fieldT (clearIgnored op) = 0x9 → fieldN (clearIgnored op) = 0x0) := by
  rw [fieldT_clearIgnored]
  unfold clearIgnored
  split
  · simp [*]
  · split
    · exact ⟨fun h => absurd h ‹_›, fun _ => fieldN_wordOfNibbles _ _ _ _⟩
    · exact ⟨fun h => absurd h ‹_›, fun h => absurd h ‹_›⟩

/-- Settles O2: with the ignored nibble cleared, the word is the encoding of the instruction decoded, which matches its
row; and a row picks the branch of the decoder. -/
theorem decodeFollowsTheOpcodeMap : Obligations.DecodeFollowsTheOpcodeMap := by
  intro p op k
  constructor
  · rintro ⟨i, hi, rfl⟩
    obtain ⟨he, hf⟩ := encode_of_decode hi
    obtain ⟨r, hr, hn, hm⟩ := encode_matches_row i
    exact ⟨r, hr, hn, (rowMatches_clearIgnored hr).2 ⟨he ▸ hm p, hf⟩⟩
  · rintro ⟨r, hr, rfl, hm⟩
    obtain ⟨hm, hf⟩ := (rowMatches_clearIgnored hr).1 hm
    obtain ⟨h0, h59⟩ := clearIgnored_cleared op
    obtain ⟨i, hi, hn⟩ := decode_of_rowMatches_cleared h0 h59 hr hm
    exact ⟨i, decode_of_decode_clearIgnored hf hi, hn⟩

/-! ### The words no row of the map matches -/

/-- Group 0 rejects the words whose x does not fit `GROUP0_MATCH` and those it lists no instruction for. -/
theorem decodeGroup0_unknown_iff : decodeGroup0 p op = .rejected (.unknown op) ↔
    (p.group0Match = .fullWord ∧ fieldX op ≠ 0x0) ∨
      (fieldNn op ∉ [0xE0, 0xEE, 0xFB, 0xFC, 0xFD, 0xFE, 0xFF] ∧ fieldY op ≠ 0xC) := by
  unfold decodeGroup0
  split
  · exact iff_of_true rfl (.inl ‹_›)
  · split <;> simp_all

/-- Group 5 rejects the words whose n does not fit `STRICT_5_9`. -/
theorem decodeGroup5_unknown_iff :
    decodeGroup5 p op = .rejected (.unknown op) ↔ p.strict59 = true ∧ fieldN op ≠ 0x0 := by
  unfold decodeGroup5
  split <;> simp_all

/-- Group 9 rejects the words whose n does not fit `STRICT_5_9`. -/
theorem decodeGroup9_unknown_iff :
    decodeGroup9 p op = .rejected (.unknown op) ↔ p.strict59 = true ∧ fieldN op ≠ 0x0 := by
  unfold decodeGroup9
  split <;> simp_all

/-- Group 8 rejects the words whose n is none of its nine. -/
theorem decodeGroup8_unknown_iff : decodeGroup8 op = .rejected (.unknown op) ↔
    fieldN op ∈ [0x8, 0x9, 0xA, 0xB, 0xC, 0xD, 0xF] := by
  have hlist : ∀ n : Nibble, n ∈ [0x8, 0x9, 0xA, 0xB, 0xC, 0xD, 0xF] ↔
      n ∉ [0x0, 0x1, 0x2, 0x3, 0x4, 0x5, 0x6, 0x7, 0xE] := by decide
  rw [hlist]
  unfold decodeGroup8
  split <;> simp_all

/-- Group E rejects the words whose nn is none of its two. -/
theorem decodeGroupE_unknown_iff : decodeGroupE op = .rejected (.unknown op) ↔ fieldNn op ∉ [0x9E, 0xA1] := by
  unfold decodeGroupE
  split <;> simp_all

/-- Group F rejects the words whose nn is none of its nine. -/
theorem decodeGroupF_unknown_iff : decodeGroupF op = .rejected (.unknown op) ↔
    fieldNn op ∉ [0x07, 0x0A, 0x15, 0x18, 0x1E, 0x29, 0x33, 0x55, 0x65] := by
  unfold decodeGroupF
  split <;> simp_all

/-- Settles O6: each group rejects the words it lists no instruction for, and a cycle at one is the uniform advance. -/
theorem unknownWordsAreTheListedNoOps : Obligations.UnknownWordsAreTheListedNoOps := by
  constructor
  · intro p op
    unfold decode
    split
    case h_1 ht => simp [ht, decodeGroup0_unknown_iff]
    case h_6 ht => simp [ht, decodeGroup5_unknown_iff]
    case h_9 ht => simp [ht, decodeGroup8_unknown_iff]
    case h_10 ht => simp [ht, decodeGroup9_unknown_iff]
    case h_15 ht => simp [ht, decodeGroupE_unknown_iff]
    case h_16 =>
      have ht : fieldT op = 0xF := group_eq_F fun k hk => by interval_cases k <;> bv_omega
      simp [ht, decodeGroupF_unknown_iff]
    all_goals
      rename_i ht
      simp [ht]
  · intro s r hr
    simp only [Machine.cycle, hr]
    rfl

end Sys2Proof
end

section
/-! PROOF. What an instruction can do to the state, said once by `exec_effect`, and the frames and the machine invariant
that follow from it. -/

namespace Sys2Proof.Machine

variable {s t : State} {i : Instr}

/-- The shapes of the change an instruction makes to a state, each with what `Safety.lean` says of the instructions that
make it. Nothing else is changed by any instruction. -/
inductive Effect (s : State) : Instr → State → Prop where
  /-- A RET on an empty stack, a CALL on a full one. -/
  | nothing {i : Instr} : Effect s i s
  | movePc {i : Instr} (a : Addr) : mayMovePc i = true → Effect s i (s.setPc a)
  | writeReg {i : Instr} (x : Nibble) (b : Byte) : mayWriteV i x = true → Effect s i (s.setV x b)
  | writeResultAndFlag {i : Instr} (x : Nibble) (r f : Byte) :
      mayWriteV i x = true → mayWriteV i vf = true → Effect s i ((s.setV x r).setV vf f)
  | writeDisp {i : Instr} (d : Display) : mayWriteDisp i = true → Effect s i (s.setDisp d)
  | draw (x y n : Nibble) (d : Display) (f : Byte) : Effect s (.drw x y n) ((s.setDisp d).setV vf f)
  | random (x : Nibble) (nn b : Byte) : Effect s (.rnd x nn) (s.consumeRandom.setV x b)
  | writeDt (x : Nibble) (b : Byte) : Effect s (.ldDtVx x) (s.setDt b)
  | writeSt (x : Nibble) (b : Byte) : Effect s (.ldStVx x) (s.setSt b)
  | writeExt {i : Instr} (e : Bool) : i = .high ∨ i = .low → Effect s i (s.setExt e)
  | writeI {i : Instr} (a : Addr) : mayWriteI s.params i = true → Effect s i (s.setI a)
  | store {i : Instr} (bs : List Byte) (a : Addr) : bs.length = storedBytes i →
      (mayWriteI s.params i = false → a = s.i) → Effect s i ((s.memWriteBytes s.i bs).setI a)
  | load (x : Nibble) (f : Nat → Byte) (a : Addr) : (mayWriteI s.params (.ldVxMem x) = false → a = s.i) →
      Effect s (.ldVxMem x) ((s.setRegs (replaceUpTo s.v x f)).setI a)
  | push (nnn a : Addr) : s.sp < 15 →
      Effect s (.call nnn) (((s.setSp (s.sp + 1)).setSlot (s.sp + 1) s.returnAddress).setPc a)
  | pop (a : Addr) : 0 ≤ s.sp → Effect s .ret ((s.setSp (s.sp - 1)).setPc a)

/-! ### The instructions that test the state -/

/-- A CALL at the full stack does nothing (decision D3). -/
theorem exec_call_full {nnn : Addr} (h : 15 ≤ s.sp) : exec (.call nnn) s = .next s := if_pos h

/-- A CALL below the full stack pushes and jumps (decision D3). -/
theorem exec_call_push {nnn : Addr} (h : s.sp < 15) : exec (.call nnn) s =
    .next (((s.setSp (s.sp + 1)).setSlot (s.sp + 1) s.returnAddress).setPc (nnn - 2)) := if_neg (not_le.2 h)

/-- A RET on the empty stack does nothing. -/
theorem exec_ret_empty (h : s.sp < 0) : exec .ret s = .next s := if_pos h

/-- A RET pops and jumps. -/
theorem exec_ret_pop (h : 0 ≤ s.sp) :
    exec .ret s = .next ((s.setSp (s.sp - 1)).setPc ((s.slot s.sp).setWidth 12 - 2)) := if_neg (not_lt.2 h)

/-- The key wait rewinds while no key it scans is pressed. -/
theorem exec_ldVxK_none {x : Nibble} (h : s.lowestKey = none) : exec (.ldVxK x) s = .next (s.setPc (s.pc - 2)) := by
  simp only [exec, execLdVxK, h, State.rewind_eq]

/-- The key wait takes the lowest pressed key it scans. -/
theorem exec_ldVxK_some {x : Nibble} {k : Nat} (h : s.lowestKey = some k) :
    exec (.ldVxK x) s = .next (s.setV x (BitVec.ofNat 8 k)) := by
  simp only [exec, execLdVxK, h]

/-- SKP and SKNP of a key index without a key raise the model fault. -/
theorem exec_keySkip_fault {x : Nibble} (h : s.pressed (s.getV x) = none) :
    exec (.skp x) s = .fault (.keyIndexOutOfRange s.pc) ∧ exec (.sknp x) s = .fault (.keyIndexOutOfRange s.pc) := by
  simp only [exec, execSkp, execSknp, h, State.raiseKeyIndexFault, and_self]

/-- SKP and SKNP of a key that is down or not. -/
theorem exec_keySkip {x : Nibble} {down : Bool} (h : s.pressed (s.getV x) = some down) :
    exec (.skp x) s = .next (s.setPc (if down then s.pc + 2 else s.pc)) ∧
      exec (.sknp x) s = .next (s.setPc (if !down then s.pc + 2 else s.pc)) := by
  cases down <;> simp [exec, execSkp, execSknp, h]

/-! ### The effect of every instruction -/

/-- Registers read as before where I changed. -/
theorem State.getV_setI (s : State) (a : Addr) (k : Nibble) : (s.setI a).getV k = s.getV k := rfl

/-- I after a block transfer is I before it in the mode `unchanged` (decision D6). -/
theorem State.indexAfterBlock_unchanged {x : Nibble} (h : (s.params.loadStoreIMode != .unchanged) = false) :
    s.indexAfterBlock x = s.i := by
  have hmode : s.params.loadStoreIMode = .unchanged := by simpa using h
  simp only [State.indexAfterBlock, hmode]

/-- A skip that its condition takes or not is a move of PC. -/
theorem Effect.skip {c : Bool} (hi : mayMovePc i = true) : Effect s i (s.skipIf c) :=
  s.skipIf_eq c ▸ .movePc _ hi

/-- Every instruction that answers a state has one of the effects. -/
theorem exec_effect (h : exec i s = .next t) : Effect s i t := by
  cases i
  case ret =>
    rcases lt_or_ge s.sp 0 with hsp | hsp
    · obtain rfl := Host.Outcome.next.inj ((exec_ret_empty hsp).symm.trans h)
      exact .nothing
    · obtain rfl := Host.Outcome.next.inj ((exec_ret_pop hsp).symm.trans h)
      exact .pop _ hsp
  case call nnn =>
    rcases lt_or_ge s.sp 15 with hsp | hsp
    · obtain rfl := Host.Outcome.next.inj ((exec_call_push hsp).symm.trans h)
      exact .push _ _ hsp
    · obtain rfl := Host.Outcome.next.inj ((exec_call_full hsp).symm.trans h)
      exact .nothing
  case ldVxK x =>
    cases hk : s.lowestKey with
    | none =>
      obtain rfl := Host.Outcome.next.inj ((exec_ldVxK_none hk).symm.trans h)
      exact .movePc _ rfl
    | some k =>
      obtain rfl := Host.Outcome.next.inj ((exec_ldVxK_some hk).symm.trans h)
      exact .writeReg _ _ (by simp [mayWriteV])
  case skp x | sknp x =>
    cases hk : s.pressed (s.getV x) with
    | none => simp [exec_keySkip_fault hk] at h
    | some down =>
      obtain rfl := Host.Outcome.next.inj (by simpa only [exec_keySkip hk] using h)
      exact .movePc _ rfl
  all_goals obtain rfl := Host.Outcome.next.inj h
  case seImm | sneImm | seReg | sneReg => exact .skip rfl
  case jp | jpV0 | exit => exact .movePc _ rfl
  case ldImm | addImm | ldReg | orReg | andReg | xorReg | ldVxDt => exact .writeReg _ _ (by simp [mayWriteV])
  case addReg | sub | shr | subn | shl =>
    exact .writeResultAndFlag _ _ _ (by simp [mayWriteV]) (by simp [mayWriteV, vf])
  case cls => exact .writeDisp _ rfl
  case scd | scr | scl => exact s.scrollBy_eq _ ▸ .writeDisp _ rfl
  case drw => exact .draw _ _ _ _ _
  case rnd => exact .random _ _ _
  case ldDtVx => exact .writeDt _ _
  case ldStVx => exact .writeSt _ _
  case high => exact .writeExt _ (.inl rfl)
  case low => exact .writeExt _ (.inr rfl)
  case ldI | addI | ldF => exact .writeI _ rfl
  case ldB x =>
    have hi : s.memWriteBytes s.i (decimalDigits (s.getV x)) =
        (s.memWriteBytes s.i (decimalDigits (s.getV x))).setI s.i := by
      rw [s.memWriteBytes_eq]
      rfl
    exact hi ▸ .store _ _ rfl fun _ => rfl
  case ldMemVx x =>
    exact .store _ _ (by simp [State.blockBytes, storedBytes]) fun h => State.indexAfterBlock_unchanged h
  case ldVxMem x => exact .load _ _ _ fun h => State.indexAfterBlock_unchanged h

/-! ### Frames -/

/-- Settles O54: the effects that write V name registers the instruction may write. -/
theorem onlyDestinationsAndFlagsChangeV : Obligations.OnlyDestinationsAndFlagsChangeV := by
  intro i s t h k hk
  have hne : ∀ x, mayWriteV i x = true → k ≠ x := by
    rintro x hx rfl
    simp [hx] at hk
  cases exec_effect h with
  | writeReg x b hx => rw [State.getV_setV, if_neg (hne x hx)]
  | writeResultAndFlag x r f hx hf => rw [State.getV_resultAndFlag, if_neg (hne vf hf), if_neg (hne x hx)]
  | draw x y n d f => exact (State.getV_setV _ _ _ _).trans (if_neg (hne vf rfl))
  | random x nn b => exact (State.getV_setV _ _ _ _).trans (if_neg (hne x (by simp [mayWriteV])))
  | load x f a =>
    have hkx : ¬k ≤ x := by simpa [mayWriteV, BitVec.le_def] using hk
    rw [State.getV_setI, State.getV_replaceUpTo, if_neg hkx, State.getV]
  | _ => exact State.getV_congr (by simp) k

/-- Settles O55: the effects that write I, and the block transfers outside the mode `unchanged`. -/
theorem onlyIndexInstructionsChangeI : Obligations.OnlyIndexInstructionsChangeI := by
  intro i s t h hi
  cases exec_effect h with
  | writeI a ha => simp [ha] at hi
  | store bs a hbs ha => exact ha hi
  | load x f a ha => exact ha hi
  | _ => rfl

/-- Settles O56: of the effects, only a store writes memory, as many bytes as the instruction stores. -/
theorem onlyStoredBytesChange : Obligations.OnlyStoredBytesChange := by
  intro i s t h a ha
  cases exec_effect h with
  | store bs _ hbs _ => exact State.memRead_memWriteBytes_of_ne fun k hk => ha k (hbs ▸ hk)
  | _ => exact State.memRead_congr (by simp) (by simp) a

/-- Settles O57: of the effects, only a push writes a slot, the one the new SP names, and only a push and a pop move
SP. -/
theorem onlyCallAndRetTouchTheStack : Obligations.OnlyCallAndRetTouchTheStack := by
  intro i s t h
  cases exec_effect h with
  | push nnn a hsp =>
    refine ⟨fun hno => absurd rfl (hno nnn), fun k hk hlow => ?_⟩
    have hne : (s.sp + 1).toNat ≠ k.val := fun he => hk (by simp; omega)
    simp [hne]
  | pop a hsp => exact ⟨fun _ => ⟨rfl, fun hno => absurd rfl hno⟩, fun _ _ _ => rfl⟩
  | _ => simp

/-- Settles O58: the timers by `exec_keeps_timers`, `ext` by the one effect that writes it. -/
theorem onlyTheirWritersChangeTimersAndExt : Obligations.OnlyTheirWritersChangeTimersAndExt := by
  intro i s t h
  obtain ⟨hdt, hst⟩ := exec_keeps_timers h
  refine ⟨hdt, hst, fun hhigh hlow => ?_⟩
  cases exec_effect h with
  | writeExt e he => exact absurd he (not_or.2 ⟨hhigh, hlow⟩)
  | _ => simp

/-- Settles O59: two effects write the display, and one consumes a random byte. -/
theorem onlyDrawingChangesDisplayAndOnlyRndDraws : Obligations.OnlyDrawingChangesDisplayAndOnlyRndDraws := by
  intro i s t h
  cases exec_effect h with
  | writeDisp d hd => exact ⟨fun hno => by simp [hd] at hno, fun _ => rfl⟩
  | draw x y n d f => exact ⟨fun hno => by simp [mayWriteDisp] at hno, fun _ => rfl⟩
  | random x nn b => exact ⟨fun _ => rfl, fun hno => absurd rfl (hno x nn)⟩
  | _ => simp

/-- Settles O60: a move, a push and a pop write PC, and no effect writes what the host owns. -/
theorem onlyControlFlowMovesPc : Obligations.OnlyControlFlowMovesPc := by
  intro i s t h
  cases exec_effect h with
  | movePc a ha => exact ⟨fun hno => by simp [ha] at hno, rfl, rfl, rfl⟩
  | push nnn a => exact ⟨fun hno => by simp [mayMovePc] at hno, rfl, rfl, rfl⟩
  | pop a => exact ⟨fun hno => by simp [mayMovePc] at hno, rfl, rfl, rfl⟩
  | _ => simp

end Sys2Proof.Machine
end

section
/-! PROOF. The machine invariant: what an effect, a cycle and a step keep (`10_state.md` R35, R38). -/

namespace Sys2Proof.Machine

variable {s t : State} {i : Instr}

/-- The invariant reads memory, the parameters, SP and the stack alone. -/
theorem Inv.congr (h : Inv s) (hmem : t.mem = s.mem) (hparams : t.params = s.params) (hsp : t.sp = s.sp)
    (hstack : t.stack = s.stack) : Inv t := by
  unfold Inv at h ⊢
  rwa [hmem, hparams, hsp, hstack]

/-- The invariant does not read PC. -/
theorem Inv.setPc (h : Inv s) (a : Addr) : Inv (s.setPc a) := h.congr rfl rfl rfl rfl

/-- The invariant does not read I. -/
theorem Inv.setI (h : Inv s) (a : Addr) : Inv (s.setI a) := h.congr rfl rfl rfl rfl

/-- Bytes stored in memory keep the invariant. -/
theorem Inv.memWriteBytes (h : Inv s) (a : Addr) (bs : List Byte) : Inv (s.memWriteBytes a bs) := by
  obtain ⟨hwf, hlow, hhigh, hslots⟩ := h
  exact ⟨State.memWriteBytes_wf hwf a bs, by simpa using hlow, by simpa using hhigh, by simpa using hslots⟩

/-- A return address is a 12-bit address (`10_state.md` R39). -/
theorem State.returnAddress_lt (s : State) : s.returnAddress.toNat < 4096 := by
  rw [State.returnAddress, BitVec.toNat_setWidth]
  exact (Nat.mod_le _ _).trans_lt (s.pc + 2).isLt

/-- A push below the full stack keeps the invariant. -/
theorem Inv.push (h : Inv s) (hsp : s.sp < 15) :
    Inv ((s.setSp (s.sp + 1)).setSlot (s.sp + 1) s.returnAddress) := by
  obtain ⟨hwf, hlow, hhigh, hslots⟩ := h
  refine ⟨hwf, ?_, ?_, fun k => ?_⟩
  · simp only [State.setSlot_sp, State.setSp_sp]
    omega
  · simp only [State.setSlot_sp, State.setSp_sp]
    omega
  · simp only [State.setSlot_stack, State.setSp_stack, Vector.getElem_setIfInBounds]
    split
    · exact s.returnAddress_lt
    · exact hslots k

/-- A pop from a stack that is not empty keeps the invariant. -/
theorem Inv.pop (h : Inv s) (hsp : 0 ≤ s.sp) : Inv (s.setSp (s.sp - 1)) := by
  obtain ⟨hwf, hlow, hhigh, hslots⟩ := h
  refine ⟨hwf, ?_, ?_, hslots⟩
  · simp only [State.setSp_sp]
    omega
  · simp only [State.setSp_sp]
    omega

/-- The execute step keeps the invariant: the effects that touch what it reads are the store, the push and the pop. -/
theorem exec_inv (hinv : Inv s) (h : exec i s = .next t) : Inv t := by
  cases exec_effect h with
  | store bs a => exact (hinv.memWriteBytes s.i bs).setI a
  | push nnn a hsp => exact (hinv.push hsp).setPc a
  | pop a hsp => exact (hinv.pop hsp).setPc a
  | _ => exact hinv.congr (by simp) (by simp) (by simp) (by simp)

/-- A cycle keeps the invariant. -/
theorem cycle_inv (hinv : Inv s) (h : cycle s = .next t) : Inv t := by
  obtain ⟨i, u, -, hu, rfl⟩ | ⟨r, -, rfl⟩ := cycle_cases h
  · exact (exec_inv hinv hu).setPc _
  · exact hinv.setPc _

/-- Settles O16: a step is the end of a frame tick, which leaves what the invariant reads, or a cycle. -/
theorem stepKeepsTheMachineInvariant : Obligations.StepKeepsTheMachineInvariant := by
  intro s t hinv h
  obtain ⟨k, rest, -, -, rfl⟩ | ⟨-, hc⟩ := step_cases h
  · exact hinv.congr rfl rfl rfl rfl
  · exact cycle_inv (s := s.spendCycle) (hinv.congr rfl rfl rfl rfl) hc

/-- Construction meets the invariant, whatever the parameters. -/
theorem construct_inv (p : Config.Params) : Inv (State.construct p) :=
  ⟨rfl, le_refl (-1 : Int), by show (-1 : Int) ≤ 15; decide, fun k => by simp [State.construct]⟩

/-- Settles O17: a ROM load stores bytes. -/
theorem constructionMeetsTheMachineInvariant : Obligations.ConstructionMeetsTheMachineInvariant :=
  fun p rom => ⟨construct_inv p, (construct_inv p).memWriteBytes romBase (rom.take romMax)⟩

/-- Settles O18: memory lists nothing, so every address reads as `resetByte` gives it, and the rest is constant. -/
theorem constructionLeavesTheResetValues : Obligations.ConstructionLeavesTheResetValues := by
  refine ⟨?_, rfl⟩
  rintro p s rfl
  refine ⟨fun a => rfl, fun k => ?_, rfl, rfl, rfl, fun k => ?_, rfl, rfl, ?_, rfl, fun k => ?_⟩
  · simp [State.getV, State.construct]
  · simp [State.construct]
  · exact Display.pixel_blank
  · simp [State.construct]

end Sys2Proof.Machine
end

section
/-! PROOF. The cycle and the step: what they run (`10_state.md` R44), where PC goes (R49), when a fault is raised
(`60_exceptions.md` R372), and the frame tick as `advance` (R390). -/

namespace Sys2Proof.Machine

variable {s t : State} {i : Instr}

/-! ### The step -/

/-- A step with no tick listed is a cycle. -/
theorem step_of_no_tick (h : s.ticks = []) : step s = cycle s := by
  simp only [step, frameStep, h]

/-- A step within a tick is a cycle, with a cycle of the tick spent. -/
theorem step_of_tick_running {k : HostTick} {rest : List HostTick} (h : s.ticks = k :: rest) (hk : k.cycles ≠ 0) :
    step s = cycle { s with ticks := { k with cycles := k.cycles - 1 } :: rest } := by
  simp only [step, frameStep, h, if_neg hk, State.spendCycle]

/-- A step at the end of a tick is the timer step and the host's turn. -/
theorem step_of_tick_done {k : HostTick} {rest : List HostTick} (h : s.ticks = k :: rest) (hk : k.cycles = 0) :
    step s = .next (s.endTick k rest) := by
  simp only [step, frameStep, h, if_pos hk]

/-- Settles O8: the two bytes decode as the fetched word does, and spending a cycle leaves that word. -/
theorem stepRunsTheDecodedInstruction : Obligations.StepRunsTheDecodedInstruction := by
  refine ⟨fun s i hi => ?_, fun t => rfl, fun f => rfl⟩
  have hdecoded : s.decoded = .instr i := congrArg Prod.fst hi
  refine ⟨fun hn => ?_, fun k rest hn hk => ?_⟩
  · rw [step_of_no_tick hn, cycle_of_instr hdecoded]
  · rw [step_of_tick_running hn hk]
    exact cycle_of_instr hdecoded

/-- Settles O14: that step is `endTick`. -/
theorem tickEndStepsTimersAndSetsKeys : Obligations.TickEndStepsTimersAndSetsKeys := fun s k rest hn hk =>
  ⟨s.endTick k rest, step_of_tick_done hn hk, countDown_toNat s.dt, countDown_toNat s.st, rfl⟩

/-- A run goes on from a step that answers a state. -/
theorem run_of_step_next (n : Nat) (h : step s = .next t) : Host.Core.run core (n + 1) s = Host.Core.run core n t := by
  have hstep : core.step s = .next t := h
  simp only [Host.Core.run, hstep]

/-- A run ends with a step that faults. -/
theorem run_of_step_fault (n : Nat) {f : Fault} (h : step s = .fault f) : Host.Core.run core (n + 1) s = .fault f := by
  have hstep : core.step s = .fault f := h
  simp only [Host.Core.run, hstep]

/-- A run ends with a step that is refused. -/
theorem run_of_step_refused (n : Nat) {r : Refusal} (h : step s = .refused r) :
    Host.Core.run core (n + 1) s = .refused r := by
  have hstep : core.step s = .refused r := h
  simp only [Host.Core.run, hstep]

/-- Settles O15: each step of the tick is a cycle, which commutes with the tick list; the last is the timer step. -/
theorem stepsOfATickAreAdvance : Obligations.StepsOfATickAreAdvance := by
  intro n s k rest
  induction n generalizing s with
  | zero => rfl
  | succ n ih =>
    have hstep : step { s with ticks := ⟨n + 1, k⟩ :: rest } = withTicks (⟨n, k⟩ :: rest) (cycle s) := by
      rw [← cycle_withTicks]
      exact step_of_tick_running (s := { s with ticks := ⟨n + 1, k⟩ :: rest }) rfl n.succ_ne_zero
    cases hc : cycle s with
    | next u =>
      have hadv : advance (n + 1) s = advance n u := by simp only [advance, runCycles, hc]
      rw [hc] at hstep
      rw [hadv]
      exact (run_of_step_next (n + 1) hstep).trans (ih u)
    | fault f =>
      rw [hc] at hstep
      simp only [advance, runCycles, hc]
      exact run_of_step_fault (n + 1) hstep
    | refused f =>
      rw [hc] at hstep
      simp only [advance, runCycles, hc]
      exact run_of_step_refused (n + 1) hstep

/-! ### What a cycle leaves to the host -/

/-- Settles O12, by induction on the number of cycles. -/
theorem cyclesLeaveWhatTheHostOwns : Obligations.CyclesLeaveWhatTheHostOwns := by
  intro n s t h
  induction n generalizing s with
  | zero =>
    obtain rfl := Host.Outcome.next.inj h
    exact ⟨rfl, rfl, rfl⟩
  | succ n ih =>
    cases hc : cycle s with
    | next u =>
      simp only [runCycles, hc] at h
      obtain ⟨hkey, hticks, hparams⟩ := ih u h
      obtain ⟨hkey', hticks', hparams'⟩ : u.key = s.key ∧ u.ticks = s.ticks ∧ u.params = s.params := by
        obtain ⟨i, w, -, hw, rfl⟩ | ⟨r, -, rfl⟩ := cycle_cases hc
        · exact (onlyControlFlowMovesPc i s w hw).2
        · exact ⟨rfl, rfl, rfl⟩
      exact ⟨hkey.trans hkey', hticks.trans hticks', hparams.trans hparams'⟩
    | fault f => simp [runCycles, hc] at h
    | refused f => simp [runCycles, hc] at h

/-! ### The model fault -/

/-- A V register names no key exactly above 15 under the `fault` policy (`45_keys.md` R312). -/
theorem State.pressed_eq_none {b : Byte} :
    s.pressed b = none ↔ s.params.keyIndexPolicy = .fault ∧ b.toNat > 15 := by
  unfold State.pressed
  split
  · simp [*]
  · rename_i hb
    cases s.params.keyIndexPolicy <;> simp [not_le.1 hb]

/-- Every instruction answers a state, but for SKP and SKNP of a key index without a key. -/
theorem exec_answers (h : ∀ x, i = .skp x ∨ i = .sknp x → s.pressed (s.getV x) ≠ none) : ∃ t, exec i s = .next t := by
  cases i
  case ret =>
    rcases lt_or_ge s.sp 0 with hsp | hsp
    · exact ⟨_, exec_ret_empty hsp⟩
    · exact ⟨_, exec_ret_pop hsp⟩
  case call nnn =>
    rcases lt_or_ge s.sp 15 with hsp | hsp
    · exact ⟨_, exec_call_push hsp⟩
    · exact ⟨_, exec_call_full hsp⟩
  case ldVxK x =>
    cases hk : s.lowestKey with
    | none => exact ⟨_, exec_ldVxK_none hk⟩
    | some k => exact ⟨_, exec_ldVxK_some hk⟩
  case skp x =>
    obtain ⟨down, hd⟩ := Option.ne_none_iff_exists'.1 (h x (.inl rfl))
    exact ⟨_, (exec_keySkip hd).1⟩
  case sknp x =>
    obtain ⟨down, hd⟩ := Option.ne_none_iff_exists'.1 (h x (.inr rfl))
    exact ⟨_, (exec_keySkip hd).2⟩
  all_goals exact ⟨_, rfl⟩

/-- Settles O11: the key skips are the one place where a result can be a fault, and then it is the key-index fault. -/
theorem cycleFaultsOnlyOnAKeyIndexAboveFifteen : Obligations.CycleFaultsOnlyOnAKeyIndexAboveFifteen := by
  intro s
  constructor
  · rintro ⟨hpolicy, x, hx, hv⟩
    obtain ⟨hskp, hsknp⟩ := exec_keySkip_fault (State.pressed_eq_none.2 ⟨hpolicy, hv⟩)
    rcases hx with hx | hx
    · rw [cycle_of_instr hx, hskp]
      rfl
    · rw [cycle_of_instr hx, hsknp]
      rfl
  · intro hno
    cases hd : s.decoded with
    | rejected r => exact ⟨s.uniformAdvance, by simp only [cycle, hd]⟩
    | instr i =>
      obtain ⟨u, hu⟩ : ∃ u, exec i s = .next u := by
        refine exec_answers fun x hx hnone => hno ?_
        obtain ⟨hpolicy, hv⟩ := State.pressed_eq_none.1 hnone
        exact ⟨hpolicy, x, hx.imp (fun e => hd.trans (congrArg _ e)) (fun e => hd.trans (congrArg _ e)), hv⟩
      exact ⟨u.uniformAdvance, by rw [cycle_of_instr hd, hu]; rfl⟩

/-! ### The next PC -/

/-- The key of a number below 16. -/
theorem State.keyDown_ofNat (s : State) {k : Nat} (hk : k < 16) : s.keyDown (BitVec.ofNat 4 k) = s.key[k] := by
  have hmod : (BitVec.ofNat 4 k).toNat = k := Nat.mod_eq_of_lt hk
  simp only [State.keyDown, hmod]

/-- The key wait goes on exactly while no key of 0..14 is pressed (`46_timers_index_memory.md` R331). -/
theorem State.lowestKey_eq_none : s.lowestKey = none ↔ ∀ k : Fin 15, s.key[k.val] = false := by
  simp only [State.lowestKey, List.find?_eq_none, List.mem_range, keyWaitScan, Bool.not_eq_true]
  exact ⟨fun h k => (s.keyDown_ofNat (by omega)).symm.trans (h k.val k.isLt),
    fun h k hk => (s.keyDown_ofNat (by omega)).trans (h ⟨k, hk⟩)⟩

/-- The target of JP V0 as a number (decision D17). -/
theorem State.v0Target_eq (s : State) (nnn : Addr) :
    s.v0Target nnn = BitVec.ofNat 12 ((nnn.toNat + (s.getV 0).toNat) % 4096) := by
  apply BitVec.eq_of_toNat_eq
  have hv := (s.getV 0).isLt
  simp only [State.v0Target, BitVec.toNat_add, BitVec.toNat_setWidth, BitVec.toNat_ofNat]
  omega

/-- PC after a skip and the uniform advance: two further on where the skip is taken (`10_state.md` R47). -/
theorem State.skipIf_nextPc {c d : Bool} (hc : c = d) :
    (s.setPc (if c then s.pc + 2 else s.pc)).pc + 2 = if d then s.pc + 4 else s.pc + 2 := by
  subst hc
  cases c
  · rfl
  · exact BitVec.add_assoc s.pc 2 2

/-- An instruction that answers a state leaves PC two before where the table of `10_state.md` R49 has it. -/
theorem exec_nextPc (h : exec i s = .next t) : t.pc + 2 = nextPcOf i s := by
  have hback (a : Addr) : a - 2 + 2 = a := BitVec.sub_add_cancel a 2
  cases i
  case jp | exit =>
    obtain rfl := Host.Outcome.next.inj h
    exact hback _
  case jpV0 nnn =>
    obtain rfl := Host.Outcome.next.inj h
    exact (hback _).trans (s.v0Target_eq nnn)
  case call nnn =>
    rcases lt_or_ge s.sp 15 with hsp | hsp
    · obtain rfl := Host.Outcome.next.inj ((exec_call_push hsp).symm.trans h)
      exact (hback nnn).trans (if_pos hsp).symm
    · obtain rfl := Host.Outcome.next.inj ((exec_call_full hsp).symm.trans h)
      exact (if_neg (not_lt.2 hsp)).symm
  case ret =>
    rcases lt_or_ge s.sp 0 with hsp | hsp
    · obtain rfl := Host.Outcome.next.inj ((exec_ret_empty hsp).symm.trans h)
      exact (if_neg (not_le.2 hsp)).symm
    · obtain rfl := Host.Outcome.next.inj ((exec_ret_pop hsp).symm.trans h)
      exact (hback _).trans (if_pos hsp).symm
  case ldVxK x =>
    cases hk : s.lowestKey with
    | none =>
      obtain rfl := Host.Outcome.next.inj ((exec_ldVxK_none hk).symm.trans h)
      have hno : ¬∃ k : Fin 15, s.key[k.val] = true := by simpa using State.lowestKey_eq_none.1 hk
      exact (hback _).trans (if_neg hno).symm
    | some k =>
      obtain rfl := Host.Outcome.next.inj ((exec_ldVxK_some hk).symm.trans h)
      have hpressed : ∃ k : Fin 15, s.key[k.val] = true := by
        by_contra hno
        simp [State.lowestKey_eq_none.2 (by simpa using hno)] at hk
      exact (if_pos hpressed).symm
  case skp x =>
    cases hk : s.pressed (s.getV x) with
    | none => simp [exec_keySkip_fault hk] at h
    | some down =>
      obtain rfl := Host.Outcome.next.inj ((exec_keySkip hk).1.symm.trans h)
      exact State.skipIf_nextPc (by simp [skipTaken, hk])
  case sknp x =>
    cases hk : s.pressed (s.getV x) with
    | none => simp [exec_keySkip_fault hk] at h
    | some down =>
      obtain rfl := Host.Outcome.next.inj ((exec_keySkip hk).2.symm.trans h)
      exact State.skipIf_nextPc (by simp [skipTaken, hk])
  case seImm | sneImm | seReg | sneReg =>
    obtain rfl := Host.Outcome.next.inj h
    rw [State.skipIf_eq]
    exact State.skipIf_nextPc (by rw [Bool.eq_iff_iff]; simp [skipTaken])
  all_goals
    obtain rfl := Host.Outcome.next.inj h
    simp [nextPcOf]

/-- Settles O10: the instructions by `exec_nextPc`, an UNKNOWN word by the uniform advance. -/
theorem cyclePcFollowsTheNextPcTable : Obligations.CyclePcFollowsTheNextPcTable := by
  intro s t h
  obtain ⟨i, u, hi, hu, rfl⟩ | ⟨r, hr, rfl⟩ := cycle_cases h
  · simp only [nextPc, hi]
    exact exec_nextPc hu
  · simp only [nextPc, hr]
    rfl

end Sys2Proof.Machine
end

section
/-! PROOF. Memory beyond one byte: the canonical form by its entries, a whole image loaded, and a word stored where the
next cycle fetches it (`20_memory.md` sections 1, 2 and 5). -/

namespace Sys2Proof.Machine

variable {p : Config.Params} {m : Memory} {s : State}

/-! ### The canonical form -/

/-- An address that finds a byte lists it. -/
theorem Memory.mem_of_find {a : Nat} {b : Byte} (h : Memory.find m a = some b) : (a, b) ∈ m := by
  induction m with
  | nil => simp [Memory.find] at h
  | cons d rest ih =>
    obtain ⟨c, x⟩ := d
    rw [Memory.find] at h
    split at h
    · simp_all
    · exact List.mem_cons_of_mem _ (ih h)

/-- In the canonical form, an address that is listed finds its byte. -/
theorem Memory.find_of_mem {a : Nat} {b : Byte} (hwf : Memory.wf p m = true) (h : (a, b) ∈ m) :
    Memory.find m a = some b := by
  induction m with
  | nil => simp at h
  | cons d rest ih =>
    obtain ⟨c, x⟩ := d
    obtain ⟨⟨hlow, -, -⟩, hrest⟩ := Memory.wf_cons.1 hwf
    rcases List.mem_cons.1 h with h | h
    · simp_all [Memory.find]
    · have hlt : c < a := hlow _ h
      rw [Memory.find, if_neg (by omega), ih hrest h]

/-- The entries of the canonical form: the addresses that read as something else than when unlisted. -/
theorem Memory.mem_iff_read {a : Nat} {b : Byte} (hwf : Memory.wf p m = true) :
    (a, b) ∈ m ↔ a < 4096 ∧ Memory.read p m a = b ∧ b ≠ resetByte p a := by
  constructor
  · intro h
    obtain ⟨ha, hb⟩ := (Memory.wf_iff.1 hwf).2 _ h
    exact ⟨ha, by rw [Memory.read, Memory.find_of_mem hwf h, Option.getD_some], hb⟩
  · rintro ⟨-, hread, hb⟩
    cases hf : Memory.find m a with
    | none => exact absurd (by rw [← hread, Memory.read, hf, Option.getD_none]) hb
    | some x =>
      rw [Memory.read, hf, Option.getD_some] at hread
      exact hread ▸ Memory.mem_of_find hf

/-- Settles O20: the bytes determine the entries, and strictly rising lists with the same entries are equal. -/
theorem canonicalMemoriesWithTheSameBytesAreEqual : Obligations.CanonicalMemoriesWithTheSameBytesAreEqual := by
  intro p m m' hwf hwf' hread
  have hmem : ∀ c : Host.Cell, c ∈ m ↔ c ∈ m' := by
    rintro ⟨a, b⟩
    rw [Memory.mem_iff_read hwf, Memory.mem_iff_read hwf']
    exact and_congr_right fun ha => by rw [hread a ha]
  exact List.Pairwise.eq_of_mem_iff (Memory.wf_iff.1 hwf).1 (Memory.wf_iff.1 hwf').1 hmem

/-! ### Runs of bytes -/

/-- An address is as far from a start as the number of steps that lead there. -/
theorem addr_eq_add (a c : Addr) : c = a + BitVec.ofNat 12 (c - a).toNat := by
  rw [BitVec.ofNat_toNat, BitVec.setWidth_eq, BitVec.add_comm, BitVec.sub_add_cancel]

/-- Memory after a run of at most 4096 byte writes, at every address: the byte that lands there, or the one before. -/
theorem State.memRead_memWriteBytes_eq (h : Memory.wf s.params s.mem = true) (a c : Addr) {bs : List Byte}
    (hlen : bs.length ≤ 4096) :
    (s.memWriteBytes a bs).memRead c = bs[(c - a).toNat]?.getD (s.memRead c) := by
  by_cases hk : (c - a).toNat < bs.length
  · rw [List.getElem?_eq_getElem hk, Option.getD_some, ← State.memRead_memWriteBytes h hlen hk, ← addr_eq_add]
  · rw [List.getElem?_eq_none (not_lt.1 hk), Option.getD_none]
    refine State.memRead_memWriteBytes_of_ne fun j hj hc => hk ?_
    rw [hc, BitVec.add_comm, BitVec.add_sub_cancel, BitVec.toNat_ofNat]
    omega

/-- Settles O21: an address has a byte of the image exactly when it is that far above 0x200, where memory ends with the
3584th byte. -/
theorem romLoadPlacesTheImage : Obligations.RomLoadPlacesTheImage := by
  intro s bytes h
  refine ⟨fun a => ?_, s.memWriteBytes_eq _ _⟩
  have ha := a.isLt
  have hdist : (a - romBase).toNat = if 512 ≤ a.toNat then a.toNat - 512 else a.toNat + 3584 := by
    have hbase : romBase.toNat = 512 := rfl
    rw [BitVec.toNat_sub, hbase]
    split <;> omega
  rw [State.romLoad, State.memRead_memWriteBytes_eq h _ _ (by simp [romMax]), hdist, List.getElem?_take, romMax]
  by_cases hlow : 512 ≤ a.toNat
  · rw [if_pos hlow, if_pos (by omega)]
    by_cases hk : a.toNat - 512 < bytes.length
    · simp [hlow, hk]
    · simp [hk]
  · rw [if_neg hlow, if_neg (by omega), if_neg (fun hc => hlow hc.1), Option.getD_none]

/-- Two bytes written at PC and after it are the next fetch. -/
theorem State.fetch_memWrite (h : Memory.wf s.params s.mem = true) (hi lo : Byte) :
    ((s.memWrite s.pc hi).memWrite (s.pc + 1) lo).fetch = wordOfBytes hi lo := by
  have hne : s.pc ≠ s.pc + 1 := by bv_omega
  simp only [State.fetch, State.memWrite_pc, State.memRead_memWrite (State.memWrite_wf h s.pc hi),
    State.memRead_memWrite h, if_neg hne, if_true]

/-- Settles O22: the two addresses differ, so each byte is read back. -/
theorem storedWordIsFetched : Obligations.StoredWordIsFetched := by
  intro s hi lo h
  rw [State.fetch_memWrite h, wordOfBytes_toNat]

/-- A word is its two bytes. -/
theorem wordOfBytes_extract (op : Word) : wordOfBytes (op.extractLsb' 8 8) (op.extractLsb' 0 8) = op := by
  apply BitVec.eq_of_toNat_eq
  have hop := op.isLt
  simp only [wordOfBytes_toNat, BitVec.extractLsb'_toNat, Nat.shiftRight_eq_div_pow]
  omega

/-- A placed word is the next fetch. -/
theorem State.fetch_placeWord (h : Memory.wf s.params s.mem = true) (n w : Nat) :
    (s.placeWord n w).fetch = BitVec.ofNat 16 (w % 2 ^ n) :=
  (State.fetch_memWrite h _ _).trans (wordOfBytes_extract _)

/-- A step of a state whose tick has a cycle left is a cycle. -/
theorem step_of_not_tickDone (h : s.tickDone = false) : step s = cycle s.spendCycle := by
  cases hticks : s.ticks with
  | nil =>
    have hsame : ({ s with ticks := [] } : State) = s := by rw [← hticks]
    rw [step_of_no_tick hticks, State.spendCycle, hticks]
    exact congrArg cycle hsame.symm
  | cons k rest =>
    have hk : k.cycles ≠ 0 := by simpa [State.tickDone, hticks] using h
    rw [step_of_tick_running hticks hk, State.spendCycle, hticks]

/-- A tick list that has a cycle to run is not done. -/
theorem State.tickDone_placeWord (s : State) (n w : Nat) : (s.placeWord n w).tickDone = false := by
  cases hticks : s.ticks with
  | nil => simp [State.tickDone, State.placeWord, hticks, atLeastOneCycle]
  | cons k rest =>
    simp only [State.tickDone, State.placeWord, hticks, atLeastOneCycle]
    split <;> simp_all

/-- Settles O23: the placed bytes are the next fetch, and the tick in progress has a cycle to run it. -/
theorem placedWordRunsNext : Obligations.PlacedWordRunsNext := by
  intro s w h
  refine ⟨?_, s.tickDone_placeWord 16 w, step_of_not_tickDone (s.tickDone_placeWord 16 w)⟩
  rw [State.withFetchWord, State.fetch_placeWord h]
  apply BitVec.eq_of_toNat_eq
  simp

end Sys2Proof.Machine
end

section
/-! PROOF. System, mode and scroll instructions (`40_system_mode_scroll.md`), and jump, call and skip
(`41_jump_call_skip.md`). The words of each instruction decode to it because they are its encoding (`decode_encode`). -/

namespace Sys2Proof.Machine

variable {s t : State}

/-- PC two lower, as a number (decision D16). -/
theorem addr_sub_two (a : Addr) : a - 2 = BitVec.ofNat 12 ((a.toNat + 4094) % 4096) := by
  apply BitVec.eq_of_toNat_eq
  have h2 : (2 : Addr).toNat = 2 := rfl
  simp only [BitVec.toNat_sub, BitVec.toNat_ofNat, h2]
  omega

/-- A slot two lower, as a number, the slot taken modulo 4096 (decision D16). -/
theorem slot_sub_two (w : Word) : w.setWidth 12 - 2 = BitVec.ofNat 12 ((w.toNat + 4094) % 4096) := by
  rw [addr_sub_two, BitVec.toNat_setWidth, Nat.mod_add_mod]

/-- A jump and the uniform advance land on the target (`10_state.md` R46). -/
theorem State.setPc_jump_advance (s : State) (a : Addr) :
    (s.setPc (a - 2)).setPc ((s.setPc (a - 2)).pc + 2) = s.setPc a := by
  rw [State.setPc_pc, BitVec.sub_add_cancel]
  rfl

/-- The cycle of an instruction that answers a state. -/
theorem cycle_of_exec {i : Instr} (hd : s.decoded = .instr i) (h : exec i s = .next t) :
    cycle s = .next (t.setPc (t.pc + 2)) := by
  rw [cycle_of_instr hd, h]
  rfl

/-- The cycle of an instruction that jumps. -/
theorem cycle_of_jump {i : Instr} {a : Addr} (hd : s.decoded = .instr i) (h : exec i s = .next (t.setPc (a - 2))) :
    cycle s = .next (t.setPc a) := by
  rw [cycle_of_exec hd h, State.setPc_jump_advance]

/-- The cycle of an instruction that rewinds changes nothing (`10_state.md` R48). -/
theorem cycle_of_rewind {i : Instr} (hd : s.decoded = .instr i) (h : exec i s = .next (s.setPc (s.pc - 2))) :
    cycle s = .next s :=
  cycle_of_jump hd h

/-- Cycles from a state whose cycle changes nothing change nothing. -/
theorem runCycles_fixed (h : cycle s = .next s) (n : Nat) : runCycles n s = .next s := by
  induction n with
  | zero => rfl
  | succ n ih => simp only [runCycles, h, ih]

/-! ### System and mode -/

/-- Settles O24: the blank buffer has no lit cell. -/
theorem clsClearsEveryCell : Obligations.ClsClearsEveryCell :=
  ⟨group0DecodesTo encode_cls, fun s => ⟨s.setDisp blankDisplay, rfl, fun _ _ _ _ => Display.pixel_blank _ _, rfl⟩⟩

/-- Settles O25: the two cases of RET, on the number of the slot it pops. -/
theorem retPopsOrDoesNothing : Obligations.RetPopsOrDoesNothing := by
  refine ⟨group0DecodesTo encode_ret, fun s => ⟨exec_ret_empty, fun k hk => ?_⟩⟩
  have hslot : s.slot s.sp = s.stack[k.val] := by simp [State.slot, hk]
  rw [exec_ret_pop (by omega), hslot, slot_sub_two]
  rfl

/-- At an EXIT word a cycle changes nothing. -/
theorem cycle_of_halted (h : Halted s) : cycle s = .next s := cycle_of_rewind h rfl

/-- Settles O26: the rewind undoes the advance, and the timer step leaves the word at PC. -/
theorem exitHaltsByRepeatingItself : Obligations.ExitHaltsByRepeatingItself := by
  refine ⟨group0DecodesTo encode_exit, fun s => ?_, fun s n h => ?_⟩
  · rw [← addr_sub_two]
    rfl
  · have hrun := runCycles_fixed (cycle_of_halted h) n
    exact ⟨hrun, s.timerStep, advance_of_runCycles hrun, h, countDown_toNat s.dt, countDown_toNat s.st, rfl⟩

/-- Settles O27: each writes `ext` alone, by definition. -/
theorem highAndLowWriteExtAlone : Obligations.HighAndLowWriteExtAlone :=
  ⟨group0DecodesTo encode_high, group0DecodesTo encode_low, fun _ => ⟨rfl, rfl⟩⟩

/-! ### Scrolls -/

/-- A scroll, given what it does to the cells: it moves the buffer alone, where scrolls move it at all (decision
D10). -/
theorem State.scrollBy_cells {move : Display → Display} {cell : Nat → Nat → Bool} {moves : Prop}
    (hmoves : moves ↔ s.ext = true ∨ s.params.scrollLowres = .physical)
    (hcell : ∀ px < 128, ∀ py < 64, Display.pixel (move s.disp) px py = cell px py) :
    ∃ t, (.next (s.scrollBy move) : Result) = .next t ∧ t = { s with disp := t.disp } ∧ (¬moves → t = s) ∧
      (moves → ∀ px < 128, ∀ py < 64, Display.pixel t.disp px py = cell px py) := by
  have hscrolls : moves ↔ s.scrolls = true := by simp [hmoves, State.scrolls]
  refine ⟨_, rfl, by rw [State.scrollBy_eq]; rfl, fun hno => if_neg (mt hscrolls.2 hno), fun h => ?_⟩
  rw [State.scrollBy_eq, State.setDisp_disp, if_pos (hscrolls.1 h)]
  exact hcell

/-- Settles O28: the three scrolls cell by cell, each under `State.scrollBy_cells`. -/
theorem scrollsShiftEveryCell : Obligations.ScrollsShiftEveryCell :=
  ⟨fun n => group0DecodesTo (i := .scd n) rfl, group0DecodesTo encode_scr, group0DecodesTo encode_scl,
    fun _ _ hmoves => ⟨fun n => State.scrollBy_cells hmoves fun _ _ _ hy => Display.pixel_scrollDown n.toNat hy,
      State.scrollBy_cells hmoves fun _ hx _ hy => Display.pixel_scrollRight 4 hx hy,
      State.scrollBy_cells hmoves fun _ _ _ hy => Display.pixel_scrollLeft 4 hy⟩⟩

/-! ### Jump and call -/

/-- Settles O29: the uniform advance undoes the two places the jump stays below its target. -/
theorem jpLandsOnItsTarget : Obligations.JpLandsOnItsTarget := by
  refine fun nnn => ⟨fun p => decode_encode p (.jp nnn), fun s => ⟨?_, fun hd => cycle_of_jump hd rfl⟩⟩
  rw [← addr_sub_two]
  rfl

/-- A return address as a number (decision D4). -/
theorem State.returnAddress_toNat (s : State) : s.returnAddress.toNat = (s.pc.toNat + 2) % 4096 := by
  have hpc : (s.pc + 2).toNat = (s.pc.toNat + 2) % 4096 := BitVec.toNat_add s.pc 2
  rw [State.returnAddress, BitVec.toNat_setWidth, hpc]
  omega

/-- Settles O30: the two cases of CALL, slot by slot. -/
theorem callPushesTheReturnAddress : Obligations.CallPushesTheReturnAddress := by
  refine fun nnn => ⟨fun p => decode_encode p (.call nnn), fun s => ⟨exec_call_full, fun k hk => ?_⟩⟩
  have hsp : s.sp + 1 = k.val := by omega
  refine ⟨_, exec_call_push (by omega), hsp, fun j => ?_, ?_, rfl⟩
  · simp only [State.setPc_stack, State.setSlot_stack, State.setSp_stack, Vector.getElem_setIfInBounds, hsp,
      Int.toNat_natCast]
    by_cases hjk : j = k
    · rw [if_pos (hjk ▸ rfl), if_pos hjk, s.returnAddress_toNat]
    · rw [if_neg (fun h => hjk (Fin.ext h.symm)), if_neg hjk]
  · rw [State.setPc_pc, addr_sub_two, BitVec.toNat_ofNat, Nat.mod_mod]

/-- Settles O31: the RET pops the slot the CALL wrote. -/
theorem retAfterCallReturns : Obligations.RetAfterCallReturns := by
  intro s t nnn hlow hhigh hd hc hret
  obtain rfl := Host.Outcome.next.inj ((cycle_of_jump hd (exec_call_push hhigh)).symm.trans hc)
  have hlow : 0 ≤ s.sp + 1 := by omega
  have hsp : s.sp + 1 - 1 = s.sp := by omega
  have hslot : ((s.setSp (s.sp + 1)).setSlot (s.sp + 1) s.returnAddress).slot (s.sp + 1) = s.returnAddress := by
    rw [State.slot_setSlot _ hlow (by omega) hlow, if_pos rfl]
  have haddr : s.returnAddress.setWidth 12 = s.pc + 2 := by simp [State.returnAddress]
  refine ⟨_, cycle_of_jump hret (exec_ret_pop hlow), ?_, hsp, ?_⟩
  · exact (congrArg (BitVec.setWidth 12) hslot).trans haddr
  · show State.setPc (State.setSp _ (s.sp + 1 - 1)) _ = _
    rw [hsp]
    rfl

/-- Nested CALLs that do not overflow the stack move SP up by their number. -/
theorem nestedCalls_sp (targets : List Addr) (h : s.sp + targets.length ≤ 15) :
    ∃ t, nestedCalls targets s = .next t ∧ t.sp = s.sp + targets.length := by
  induction targets generalizing s with
  | nil => exact ⟨s, rfl, by simp⟩
  | cons nnn rest ih =>
    rw [List.length_cons, Nat.cast_succ] at h ⊢
    have hcall : advanceResult (exec (.call nnn) s) =
        .next (((s.setSp (s.sp + 1)).setSlot (s.sp + 1) s.returnAddress).setPc (nnn - 2)).uniformAdvance := by
      rw [exec_call_push (by omega)]
      rfl
    simp only [nestedCalls, hcall]
    obtain ⟨t, ht, htsp⟩ := ih (s := (((s.setSp (s.sp + 1)).setSlot (s.sp + 1) s.returnAddress).setPc
      (nnn - 2)).uniformAdvance) (show s.sp + 1 + rest.length ≤ 15 by omega)
    exact ⟨t, ht, htsp.trans (show s.sp + 1 + rest.length = _ by omega)⟩

/-- Settles O32: sixteen CALLs from the empty stack leave SP at 15, where a CALL does nothing. -/
theorem sixteenCallsFillTheStack : Obligations.SixteenCallsFillTheStack := by
  intro targets s hsp hlen
  obtain ⟨t, ht, htsp⟩ := nestedCalls_sp (s := s) targets (by omega)
  exact ⟨t, ht, by omega, fun hfull nnn => exec_call_full (by omega)⟩

/-! ### Skips -/

/-- A skip as one update of PC. -/
theorem State.skipIf_decide (s : State) {c : Bool} {q : Prop} [Decidable q] (h : c = true ↔ q) :
    s.skipIf c = { s with pc := if q then s.pc + 2 else s.pc } := by
  rw [State.skipIf_eq, State.setPc]
  simp only [h]

/-- Settles O33: the skip conditions as equality and inequality. -/
theorem immediateSkipsCompareTheWholeByte : Obligations.ImmediateSkipsCompareTheWholeByte := by
  refine fun x nn => ⟨fun p => decode_encode p (.seImm x nn), fun p => decode_encode p (.sneImm x nn), fun s => ?_⟩
  exact ⟨congrArg _ (s.skipIf_decide beq_iff_eq), congrArg _ (s.skipIf_decide bne_iff_ne)⟩

/-- Settles O34: the skip conditions as equality and inequality, and the nibble the decoder may ignore. -/
theorem registerSkipsCompareTwoRegisters : Obligations.RegisterSkipsCompareTwoRegisters := by
  refine fun x y => ⟨fun p q hq => decode_registerSkip x y hq, fun s => ?_⟩
  exact ⟨congrArg _ (s.skipIf_decide beq_iff_eq), congrArg _ (s.skipIf_decide bne_iff_ne)⟩

end Sys2Proof.Machine
end

section
/-! PROOF. Register arithmetic and logic (`42_alu.md`), index, V0-relative jump and random byte
(`43_index_jump_random.md`). -/

namespace Sys2Proof.Machine

/-! ### Bytes as numbers -/

/-- A sum of bytes is the sum of their numbers modulo 256 (`42_alu.md` R225). -/
theorem byte_add_eq (a b : Byte) : a + b = BitVec.ofNat 8 ((a.toNat + b.toNat) % 256) := by
  apply BitVec.eq_of_toNat_eq
  rw [BitVec.toNat_add, BitVec.toNat_ofNat, Nat.mod_mod]

/-- A difference of bytes is the difference of their numbers modulo 256 (`42_alu.md` R225). -/
theorem byte_sub_eq (a b : Byte) : a - b = BitVec.ofNat 8 ((a.toNat + 256 - b.toNat) % 256) := by
  apply BitVec.eq_of_toNat_eq
  have hb := b.isLt
  rw [BitVec.toNat_sub, BitVec.toNat_ofNat, Nat.mod_mod]
  omega

/-- SHR halves the source. -/
theorem byte_shr_eq (a : Byte) : a >>> 1 = BitVec.ofNat 8 (a.toNat / 2) := by
  apply BitVec.eq_of_toNat_eq
  have ha := a.isLt
  rw [BitVec.toNat_ushiftRight, BitVec.toNat_ofNat, Nat.shiftRight_eq_div_pow]
  omega

/-- SHL doubles the source modulo 256. -/
theorem byte_shl_eq (a : Byte) : a <<< 1 = BitVec.ofNat 8 (a.toNat * 2 % 256) := by
  apply BitVec.eq_of_toNat_eq
  rw [BitVec.toNat_shiftLeft, BitVec.toNat_ofNat, Nat.shiftLeft_eq, Nat.mod_mod]

/-- The flag of SHR is the parity of the source. -/
theorem shrFlag_eq (a : Byte) : shrFlag a = BitVec.ofNat 8 (a.toNat % 2) := by
  revert a
  decide

/-- The flag of SHL is the top bit of the source. -/
theorem shlFlag_eq (a : Byte) : shlFlag a = BitVec.ofNat 8 (a.toNat / 128) := by
  revert a
  decide

/-- A flag on a proposition. -/
theorem flagByte_decide (q : Prop) [Decidable q] : flagByte (decide q) = if q then 1 else 0 := by
  by_cases h : q <;> simp [flagByte, h]

/-! ### Results in V[x] -/

/-- A write of V[x] alone: the frame, and V[x] bit by bit. -/
theorem State.setV_bitwise (s : State) (x : Nibble) {b : Byte} {bit : Nat → Bool}
    (hbit : ∀ j < 8, b.getLsbD j = bit j) :
    ∃ t, (.next (s.setV x b) : Result) = .next t ∧ t = { s with v := t.v } ∧ (∀ k, k ≠ x → t.getV k = s.getV k) ∧
      ∀ j < 8, (t.getV x).getLsbD j = bit j :=
  ⟨_, rfl, rfl, fun k hk => by rw [State.getV_setV, if_neg hk], by rwa [State.getV_setV_same]⟩

/-- A result and a flag: every register after them, VF with the flag also as the destination (`10_state.md` R32). -/
theorem State.setResultAndFlag_spec (s : State) (x : Nibble) {r r' f f' : Byte} (hr : r = r') (hf : f = f') :
    ∃ t, (.next (s.setResultAndFlag x r f) : Result) = .next t ∧ t = { s with v := t.v } ∧
      ∀ k, t.getV k = if k = 0xF then f' else if k = x then r' else s.getV k :=
  ⟨_, rfl, rfl, fun k => by subst hr hf; exact s.getV_resultAndFlag x k r f⟩

/-- Settles O35: three writes of V[x], the sum on numbers. -/
theorem loadsAndImmediateAddWriteVx : Obligations.LoadsAndImmediateAddWriteVx := by
  refine ⟨fun x nn => ⟨fun p => decode_encode p (.ldImm x nn), fun p => decode_encode p (.addImm x nn), fun s =>
    ⟨rfl, ?_⟩⟩, fun x y => ⟨fun p => decode_encode p (.ldReg x y), fun _ => rfl⟩⟩
  rw [← byte_add_eq]
  rfl

/-- Settles O36: three writes of V[x], each bit by bit. -/
theorem logicWritesVxBitwise : Obligations.LogicWritesVxBitwise := fun x y =>
  ⟨fun p => decode_encode p (.orReg x y), fun p => decode_encode p (.andReg x y),
    fun p => decode_encode p (.xorReg x y),
    fun s => ⟨s.setV_bitwise x fun _ _ => BitVec.getLsbD_or, s.setV_bitwise x fun _ _ => BitVec.getLsbD_and,
      s.setV_bitwise x fun _ _ => BitVec.getLsbD_xor⟩⟩

/-- Settles O37: the sum and its carry on numbers. -/
theorem addSetsTheCarryLast : Obligations.AddSetsTheCarryLast := fun x y =>
  ⟨fun p => decode_encode p (.addReg x y), fun s => s.setResultAndFlag_spec x (byte_add_eq _ _) (flagByte_decide _)⟩

/-- Settles O38: both differences and their no-borrow flags on numbers. -/
theorem subtractionsSetNoBorrowLast : Obligations.SubtractionsSetNoBorrowLast := fun x y =>
  ⟨fun p => decode_encode p (.sub x y), fun p => decode_encode p (.subn x y), fun s =>
    ⟨s.setResultAndFlag_spec x (byte_sub_eq _ _) (flagByte_decide _),
      s.setResultAndFlag_spec x (byte_sub_eq _ _) (flagByte_decide _)⟩⟩

/-- The register a shift reads, by `SHIFT_SOURCE` (decision D5). -/
theorem State.shiftOperand_eq (s : State) (x y : Nibble) :
    s.shiftOperand x y = if s.params.shiftSource = .vx then s.getV x else s.getV y := by
  cases h : s.params.shiftSource <;> simp [State.shiftOperand, h]

/-- Settles O39: the two shifts of the one source, on its number. -/
theorem shiftsSetTheBitShiftedOutLast : Obligations.ShiftsSetTheBitShiftedOutLast := by
  refine fun x y => ⟨fun p => decode_encode p (.shr x y), fun p => decode_encode p (.shl x y), ?_⟩
  rintro s src rfl
  rw [← s.shiftOperand_eq]
  exact ⟨s.setResultAndFlag_spec x (byte_shr_eq _) (shrFlag_eq _),
    s.setResultAndFlag_spec x (byte_shl_eq _) (shlFlag_eq _)⟩

/-! ### Index, V0-relative jump, random byte -/

/-- I plus V[x], as a number (`46_timers_index_memory.md` R336). -/
theorem State.indexPlus_eq (s : State) (x : Nibble) :
    s.indexPlus x = BitVec.ofNat 12 ((s.i.toNat + (s.getV x).toNat) % 4096) := by
  apply BitVec.eq_of_toNat_eq
  have hv := (s.getV x).isLt
  simp only [State.indexPlus, BitVec.toNat_add, BitVec.toNat_setWidth, BitVec.toNat_ofNat]
  omega

/-- Settles O40: two writes of I, the sum on numbers. -/
theorem indexLoadAndAddWriteI : Obligations.IndexLoadAndAddWriteI := by
  refine ⟨fun nnn => ⟨fun p => decode_encode p (.ldI nnn), fun _ => rfl⟩,
    fun x => ⟨fun p => decode_encode p (.addI x), fun s => ?_⟩⟩
  rw [← s.indexPlus_eq]
  rfl

/-- A glyph address does not wrap, whatever the byte (decision D11). -/
theorem glyphAddress_toNat (ext : Bool) (b : Byte) :
    (glyphAddress ext b).toNat = if ext then 10 * b.toNat + 80 else 5 * b.toNat := by
  have hb := b.isLt
  unfold glyphAddress
  split <;> rw [BitVec.toNat_ofNat] <;> omega

/-- Settles O41: the glyph address never reaches 4096. -/
theorem fontPointerFollowsExt : Obligations.FontPointerFollowsExt := fun x =>
  ⟨fun p => decode_encode p (.ldF x), fun s => ⟨_, rfl, rfl, glyphAddress_toNat s.ext (s.getV x)⟩⟩

/-- Settles O42: the target on numbers, and the cycle of a jump. -/
theorem jpV0AddsV0 : Obligations.JpV0AddsV0 := by
  refine fun nnn => ⟨fun p => decode_encode p (.jpV0 nnn), fun s => ⟨⟨_, rfl, rfl, ?_⟩, fun hd => ?_⟩⟩
  · show (s.v0Target nnn - 2).toNat = _
    rw [addr_sub_two, s.v0Target_eq]
    simp
  · rw [← s.v0Target_eq]
    exact cycle_of_jump hd rfl

/-- Settles O43: one byte consumed, then a write of V[x]. -/
theorem rndMasksOneRandomByte : Obligations.RndMasksOneRandomByte := fun x nn =>
  ⟨fun p => decode_encode p (.rnd x nn), fun s => ⟨_, rfl, rfl, fun k => State.getV_setV s.consumeRandom x k _, rfl⟩⟩

end Sys2Proof.Machine
end

section
/-! PROOF. Keys (`45_keys.md`), timers and memory transfer (`46_timers_index_memory.md`). -/

namespace Sys2Proof.Machine

variable {s : State}

/-! ### Keys -/

/-- The key of a byte's low nibble. -/
theorem State.keyDown_setWidth (s : State) (b : Byte) {k : Fin 16} (hk : b.toNat % 16 = k.val) :
    s.keyDown (b.setWidth 4) = s.key[k.val] := by
  have hw : (b.setWidth 4).toNat = k.val := by rw [BitVec.toNat_setWidth, ← hk]
  simp only [State.keyDown, hw]

/-- Settles O47: the three ways in which a V register names a key, or no key that is down. -/
theorem keySkipsTestTheNamedKey : Obligations.KeySkipsTestTheNamedKey := by
  refine fun x => ⟨fun p => decode_encode p (.skp x), fun p => decode_encode p (.sknp x), fun s down h => ?_⟩
  have hpressed : s.pressed (s.getV x) = some down := by
    unfold State.pressed
    rcases h with ⟨k, hk, rfl⟩ | ⟨hv, hpolicy, k, hk, rfl⟩ | ⟨hv, hpolicy, rfl⟩
    · rw [if_pos (by omega), s.keyDown_setWidth _ (k := k) (by omega)]
    · rw [if_neg (by omega), hpolicy]
      exact congrArg some (s.keyDown_setWidth _ hk)
    · rw [if_neg (by omega), hpolicy]
  obtain ⟨hskp, hsknp⟩ := exec_keySkip hpressed
  rw [hskp, hsknp]
  cases down <;> exact ⟨rfl, rfl⟩

/-- Settles O48: under that policy such a register names no key. -/
theorem keySkipsFaultAboveFifteenUnderFaultPolicy : Obligations.KeySkipsFaultAboveFifteenUnderFaultPolicy :=
  fun _ _ hpolicy hv => exec_keySkip_fault (State.pressed_eq_none.2 ⟨hpolicy, hv⟩)

/-- The key wait takes a pressed key of 0..14 below which none is pressed. -/
theorem State.lowestKey_eq_some {k : Fin 15} (hk : s.key[k.val] = true)
    (hlow : ∀ j : Fin 15, j < k → s.key[j.val] = false) : s.lowestKey = some k.val := by
  rw [State.lowestKey, List.find?_range_eq_some]
  refine ⟨(s.keyDown_ofNat (by omega)).trans hk, List.mem_range.2 k.isLt, fun j hj => ?_⟩
  rw [s.keyDown_ofNat (by omega), hlow ⟨j, by omega⟩ hj]
  rfl

/-- Settles O49: the scan finds no key and the cycle repeats, or it finds the lowest one. -/
theorem keyWaitTakesTheLowestOfKeysZeroToFourteen : Obligations.KeyWaitTakesTheLowestOfKeysZeroToFourteen := by
  refine fun x => ⟨fun p => decode_encode p (.ldVxK x), fun s hno => ?_, fun s k hk hlow => ?_⟩
  · have hwait : exec (.ldVxK x) s = .next (s.setPc (s.pc - 2)) := exec_ldVxK_none (State.lowestKey_eq_none.2 hno)
    refine ⟨?_, fun hd => runCycles_fixed (cycle_of_rewind hd hwait)⟩
    rw [hwait, addr_sub_two]
    rfl
  · exact exec_ldVxK_some (State.lowestKey_eq_some hk hlow)

/-! ### Timers -/

/-- Settles O50: three copies of one register, by definition. -/
theorem timerLoadsAndStores : Obligations.TimerLoadsAndStores := fun x =>
  ⟨fun p => decode_encode p (.ldVxDt x), fun p => decode_encode p (.ldDtVx x), fun p => decode_encode p (.ldStVx x),
    fun _ => ⟨rfl, rfl, rfl⟩⟩

/-! ### Memory transfer -/

/-- An address is k past another exactly when their difference is k. -/
theorem addr_eq_add_iff {a c : Addr} {k : Nat} (hk : k < 4096) : c = a + BitVec.ofNat 12 k ↔ (c - a).toNat = k := by
  constructor
  · rintro rfl
    rw [BitVec.add_comm, BitVec.add_sub_cancel, BitVec.toNat_ofNat, Nat.mod_eq_of_lt hk]
  · rintro rfl
    exact addr_eq_add a c

/-- Settles O51: an address has a digit exactly when its distance from I is below 3. -/
theorem bcdStoresThreeDigits : Obligations.BcdStoresThreeDigits := by
  refine fun x => ⟨fun p => decode_encode p (.ldB x), fun s h => ⟨_, rfl, s.memWriteBytes_eq _ _, fun a => ?_⟩⟩
  have hv := (s.getV x).isLt
  have h0 : a = s.i ↔ (a - s.i).toNat = 0 := by simpa using addr_eq_add_iff (a := s.i) (c := a) (k := 0) (by omega)
  have h1 : a = s.i + 1 ↔ (a - s.i).toNat = 1 := addr_eq_add_iff (k := 1) (by omega)
  have h2 : a = s.i + 2 ↔ (a - s.i).toNat = 2 := addr_eq_add_iff (k := 2) (by omega)
  rw [State.memRead_memWriteBytes_eq h _ _ (by simp [decimalDigits])]
  simp only [h0, h1, h2, decimalDigits]
  match (a - s.i).toNat with
  | 0 => simp; omega
  | 1 => simp; omega
  | 2 => simp; omega
  | k + 3 => simp

/-- I after a block transfer, as a number (decision D6). -/
theorem State.indexAfterBlock_toNat (s : State) (x : Nibble) :
    (s.indexAfterBlock x).toNat = (match s.params.loadStoreIMode with
      | .unchanged => s.i.toNat
      | .plusX => (s.i.toNat + x.toNat) % 4096
      | .plusXPlus1 => (s.i.toNat + x.toNat + 1) % 4096) := by
  unfold State.indexAfterBlock
  cases s.params.loadStoreIMode with
  | unchanged => rfl
  | plusX => simp [State.indexed, BitVec.toNat_add]
  | plusXPlus1 => simp [State.indexed, BitVec.toNat_add, Nat.add_assoc]

/-- The bytes of a block store are the registers in turn. -/
theorem State.getElem_blockBytes (s : State) {x k : Nibble} (hk : k.toNat < (s.blockBytes x).length) :
    (s.blockBytes x)[k.toNat] = s.getV k := by
  simp [State.blockBytes]

/-- Settles O52: the bytes stored are the registers in turn, and every address out of reach is kept. -/
theorem blockStoreWritesV0ToVx : Obligations.BlockStoreWritesV0ToVx := by
  refine fun x => ⟨fun p => decode_encode p (.ldMemVx x), fun s h => ?_⟩
  have hlen : (s.blockBytes x).length = x.toNat + 1 := by simp [State.blockBytes]
  have hx := x.isLt
  refine ⟨_, rfl, fun k hk => ?_, fun a ha => ?_, s.indexAfterBlock_toNat x, ?_⟩
  · have hk' : k.toNat < (s.blockBytes x).length := by
      rw [hlen]
      exact Nat.lt_succ_of_le hk
    exact (State.memRead_memWriteBytes h (by omega) hk').trans (s.getElem_blockBytes hk')
  · exact State.memRead_memWriteBytes_of_ne fun k hk => ha k (by omega)
  · rw [s.memWriteBytes_eq]
    rfl

/-- A byte at a distance from I, by its number. -/
theorem State.memRead_indexed (s : State) (k : Nat) :
    s.memRead (s.indexed k) = Memory.read s.params s.mem ((s.i.toNat + k) % 4096) := by
  have haddr : (s.indexed k).toNat = (s.i.toNat + k) % 4096 := by simp [State.indexed, BitVec.toNat_add]
  rw [State.memRead, haddr]

/-- A write of the registers and of I changes nothing else. -/
theorem State.setRegs_setI_frame (s : State) (w : Vector Byte 16) (a : Addr) :
    (s.setRegs w).setI a = { s with v := ((s.setRegs w).setI a).v, i := ((s.setRegs w).setI a).i } := rfl

/-- Settles O53: the registers up to x are read from memory in turn. -/
theorem blockLoadReadsV0ToVx : Obligations.BlockLoadReadsV0ToVx := by
  refine fun x => ⟨fun p => decode_encode p (.ldVxMem x), fun s => ⟨_, rfl, fun k => ?_, ?_, s.setRegs_setI_frame _ _⟩⟩
  · rw [State.getV_setI, State.getV_replaceUpTo, s.memRead_indexed, State.getV]
    simp only [BitVec.le_def]
  · rw [State.setI_i]
    exact s.indexAfterBlock_toNat x

end Sys2Proof.Machine
end

section
/-! PROOF. The sprite draw (`44_draw.md`): the loop of R276 against the cell-by-cell description `spriteCovers`. -/

namespace Sys2Proof.Machine

variable {s t : State} {x y n : Nibble} {px py : Nat}

/-- A sprite row is one byte of 8 columns, or two bytes of 16 (`44_draw.md` R271). -/
theorem drawGeometry_row (ext : Bool) (n : Nibble) :
    (drawGeometry ext n).bytesPerRow = 1 ∧ (drawGeometry ext n).spriteWidth = 8 ∨
      (drawGeometry ext n).bytesPerRow = 2 ∧ (drawGeometry ext n).spriteWidth = 16 := by
  unfold drawGeometry
  split
  · split
    · exact .inr ⟨rfl, rfl⟩
    · exact .inl ⟨rfl, rfl⟩
  · exact .inl ⟨rfl, rfl⟩

/-- A sprite bit is a bit of the byte its row and column number, most significant bit on the left (R274, R278). -/
theorem State.spriteBit_eq (s : State) {g : Geometry} {c : Nat} (r : Nat)
    (hrow : g.bytesPerRow = 1 ∧ g.spriteWidth = 8 ∨ g.bytesPerRow = 2 ∧ g.spriteWidth = 16) (hc : c < g.spriteWidth) :
    s.spriteBit g c r = (s.memRead (s.indexed (g.bytesPerRow * r + c / 8))).getLsbD (7 - c % 8) := by
  unfold State.spriteBit
  obtain ⟨hbytes, hwidth⟩ | ⟨hbytes, hwidth⟩ := hrow
  · rw [hwidth] at hc
    rw [if_neg (by omega), hbytes, Nat.div_eq_of_lt hc, Nat.mod_eq_of_lt hc, Nat.one_mul, Nat.add_zero]
  · rw [hwidth] at hc
    rw [if_pos hbytes, hbytes]
    split
    · rename_i hleft
      rw [Nat.div_eq_of_lt hleft, Nat.mod_eq_of_lt hleft, Nat.add_zero]
    · have hdiv : c / 8 = 1 := by omega
      have hmod : 7 - c % 8 = 15 - c := by omega
      rw [hdiv, hmod]

/-- The cells a draw names, by their own coordinates in the draw's space. -/
theorem mem_spriteCells_iff {g : Geometry} {x0 y0 : Nat} {bit : Nat → Nat → Bool} (hs : 0 < g.scale) :
    (px, py) ∈ spriteCells g x0 y0 bit ↔
      (x0 ≤ px / g.scale ∧ px / g.scale < x0 + g.spriteWidth ∧ px / g.scale < g.spaceWidth ∧
        y0 ≤ py / g.scale ∧ py / g.scale < y0 + g.spriteHeight ∧ py / g.scale < g.spaceHeight) ∧
      bit (px / g.scale - x0) (py / g.scale - y0) = true := by
  rw [mem_spriteCells hs]
  constructor
  · rintro ⟨r, hr, c, hc, hbit, hx, hy⟩
    rw [lt_min_iff] at hr hc
    dsimp only at hx hy
    rw [hx, hy, Nat.add_sub_cancel_left, Nat.add_sub_cancel_left]
    exact ⟨by omega, hbit⟩
  · rintro ⟨h, hbit⟩
    refine ⟨py / g.scale - y0, ?_, px / g.scale - x0, ?_, hbit, ?_, ?_⟩
    · rw [lt_min_iff]
      omega
    · rw [lt_min_iff]
      omega
    · dsimp only
      omega
    · dsimp only
      omega

/-- The description of the sprite is made of the numbers of the draw geometry (R271). -/
theorem spriteCovers_eq (s : State) (x y n : Nibble) (px py : Nat) :
    spriteCovers s x y n px py = spriteCovers.covers s x y px py (drawGeometry s.ext n).spaceWidth
      (drawGeometry s.ext n).spaceHeight (drawGeometry s.ext n).spriteWidth (drawGeometry s.ext n).spriteHeight
      (drawGeometry s.ext n).bytesPerRow (drawGeometry s.ext n).scale := by
  unfold spriteCovers drawGeometry
  split
  · split <;> rfl
  · rfl

/-- The loop of R276 names exactly the cells the clipped sprite covers with a set bit. -/
theorem State.mem_drawTargets (s : State) (x y n : Nibble) (px py : Nat) :
    (px, py) ∈ s.drawTargets x y n ↔ spriteCovers s x y n px py = true := by
  obtain ⟨hs, -⟩ := drawGeometry_space s.ext n
  have hrow := drawGeometry_row s.ext n
  rw [State.drawTargets, mem_spriteCells_iff hs, spriteCovers_eq]
  generalize drawGeometry s.ext n = g at *
  simp only [spriteCovers.covers, Bool.and_eq_true, decide_eq_true_eq]
  refine and_congr_right fun h => ?_
  rw [s.spriteBit_eq _ hrow (by omega), s.memRead_indexed, Nat.add_assoc]

/-- The collision of a draw: a covered cell was lit. -/
theorem State.drawCells_collided_iff (s : State) (x y n : Nibble) :
    (drawCells s.disp (s.drawTargets x y n)).1 = true ↔
      ∃ px < 128, ∃ py < 64, Display.pixel s.disp px py = true ∧ spriteCovers s x y n px py = true := by
  obtain ⟨hnodup, hinside⟩ := s.drawTargets_inside x y n
  rw [drawCells, drawCells_collided hnodup hinside, Bool.false_or, List.any_eq_true]
  constructor
  · rintro ⟨⟨px, py⟩, hcell, hlit⟩
    obtain ⟨hx, hy⟩ := hinside _ hcell
    exact ⟨px, hx, py, hy, hlit, (s.mem_drawTargets x y n px py).1 hcell⟩
  · rintro ⟨px, -, py, -, hlit, hcovers⟩
    exact ⟨(px, py), (s.mem_drawTargets x y n px py).2 hcovers, hlit⟩

/-- A draw flips the covered cells. -/
theorem State.pixel_drawCells (s : State) (x y n : Nibble) (hx : px < 128) (hy : py < 64) :
    Display.pixel (drawCells s.disp (s.drawTargets x y n)).2 px py =
      (Display.pixel s.disp px py ^^ spriteCovers s x y n px py) := by
  rw [drawCells, drawCells_pixel (s.drawTargets_inside x y n).1 hx hy]
  congr 1
  rw [Bool.eq_iff_iff, decide_eq_true_eq, s.mem_drawTargets]

/-- Settles O44: the loop names each covered cell once, so it flips just these and meets the lit ones among them. -/
theorem drwFlipsExactlyTheCoveredCells : Obligations.DrwFlipsExactlyTheCoveredCells := by
  refine fun x y n => ⟨fun p => decode_encode p (.drw x y n), fun s => ?_⟩
  have hflag (d : Display) (c : Bool) : ((s.setDisp d).setFlag (flagByte c)).getV 0xF = flagByte c :=
    State.getV_setV_same _ _ _
  refine ⟨_, rfl, rfl, fun px hx py hy => s.pixel_drawCells x y n hx hy, fun k hk => ?_, ?_, ?_⟩
  · exact (State.getV_setV _ _ _ _).trans (if_neg hk)
  · rw [hflag]
    cases (drawCells s.disp (s.drawTargets x y n)).1
    · exact .inl rfl
    · exact .inr rfl
  · rw [hflag, flagByte_eq_one, s.drawCells_collided_iff]

/-- What the sprite covers depends on the two registers, I, memory, the parameters and the mode alone. -/
theorem spriteCovers_congr (h : t = { s with v := t.v, disp := t.disp }) (hx : t.getV x = s.getV x)
    (hy : t.getV y = s.getV y) : spriteCovers t x y n px py = spriteCovers s x y n px py := by
  have hext : t.ext = s.ext := by rw [h]
  have hi : t.i = s.i := by rw [h]
  have hmem : t.mem = s.mem := by rw [h]
  have hparams : t.params = s.params := by rw [h]
  simp only [spriteCovers, spriteCovers.covers, hext, hi, hmem, hparams, hx, hy]

/-- Settles O45: the second draw covers the same cells, so it flips each back, and it meets a lit cell exactly where the
first one met a dark one. -/
theorem drawingTwiceRestoresTheBuffer : Obligations.DrawingTwiceRestoresTheBuffer := by
  intro s t u x y n ht hx hy hu
  obtain ⟨t', ht', htframe, htpixel, -, -, -⟩ := (drwFlipsExactlyTheCoveredCells x y n).2 s
  obtain rfl := Host.Outcome.next.inj (ht'.symm.trans ht)
  obtain ⟨u', hu', -, hupixel, -, -, huflag⟩ := (drwFlipsExactlyTheCoveredCells x y n).2 t'
  obtain rfl := Host.Outcome.next.inj (hu'.symm.trans hu)
  have hcovers (px py : Nat) : spriteCovers t' x y n px py = spriteCovers s x y n px py :=
    spriteCovers_congr htframe hx hy
  constructor
  · refine Display.ext_pixel fun px hpx py hpy => ?_
    rw [hupixel px hpx py hpy, htpixel px hpx py hpy, hcovers, Bool.xor_assoc, Bool.xor_self, Bool.xor_false]
  · rw [huflag]
    refine exists_congr fun px => and_congr_right fun hpx => exists_congr fun py => and_congr_right fun hpy => ?_
    rw [htpixel px hpx py hpy, hcovers]
    cases spriteCovers s x y n px py <;> simp

/-- A sprite has at least one row, but for n = 0 in low-res (R271). -/
theorem drawGeometry_spriteHeight_pos {ext : Bool} (h : ext = true ∨ n ≠ 0) :
    0 < (drawGeometry ext n).spriteHeight := by
  have hpos (hn : n ≠ 0) : 0 < n.toNat := Nat.pos_of_ne_zero fun h0 => hn (BitVec.eq_of_toNat_eq h0)
  cases ext with
  | true =>
    by_cases hn : n = 0
    · rw [drawGeometry, if_pos rfl, if_pos hn]
      decide
    · rw [drawGeometry, if_pos rfl, if_neg hn]
      exact hpos hn
  | false => exact hpos (h.resolve_left Bool.false_ne_true)

/-- Settles O46: a sprite without rows names no cell; every other keeps a row inside the clip. -/
theorem zeroHeightDrawOnlyClearsVf : Obligations.ZeroHeightDrawOnlyClearsVf := by
  refine fun s x y => ⟨fun hext => ?_, fun n hn => ?_⟩
  · have hnone : s.drawTargets x y 0 = [] := by
      simp [State.drawTargets, spriteCells, hext, drawGeometry]
    simp only [exec, execDrw, hnone]
    rfl
  · obtain ⟨-, -, hh, -⟩ := drawGeometry_space s.ext n
    exact lt_min (drawGeometry_spriteHeight_pos hn) (Nat.sub_pos_of_lt (Nat.mod_lt _ hh))

end Sys2Proof.Machine
end
